-- ==== Sys2Proof/Config.lean ====
section
/-! DEFINITION. What an implementation fixes: the counts of `00_scope.md` rule R10, and the parameters that rule R12 leaves open as a
record that a launch supplies: the widths `XLEN` and `PCW` and the three open behaviours. The numbers are the source's as they stand (D1, log 17). -/

namespace Sys2Proof.Config

/-- The default of `XLEN` (R12, D2). -/
abbrev xlenDefault : Nat := 64

/-- The default of `PCW` (R12, D3). -/
abbrev pcwDefault : Nat := 32

/-- The least `PCW` the spec allows (D3). -/
abbrev pcwLeast : Nat := 17

/-- `NLOG`, the number of logical registers (R10, R31). -/
abbrev nlog : Nat := 32

/-- `NPHYS`, the number of physical registers (R10, R34). -/
abbrev nphys : Nat := 64

/-- `W`, the width of fetch, dispatch, issue and execute (R10). -/
abbrev width : Nat := 4

/-- The number of Active List entries one recovery step squashes at most (R10, R281). -/
abbrev squashWidth : Nat := 4

/-- The capacity a build gives the Active List and the Issue Queue (R11). -/
abbrev capacity : Nat := 32

/-- `FAULT_VECTOR` (R10, R72, R253). -/
abbrev faultVector : Nat := 65536

/-- The largest program length a launch may give (R71, R316). -/
abbrev maxProgram : Nat := 65536

/-- `STALL_MODE`: what happens to a decoded instruction that cannot be dispatched (R12, R168, C1). -/
inductive StallMode where
  | retain
  | drop
deriving DecidableEq, Repr

/-- `RECOVERY_VARIANT` (R12, R281, R282, R285). -/
inductive RecoveryVariant where
  | observed
  | corrected
deriving DecidableEq, Repr

/-- The parameters of R12 that a launch chooses, beside the program and `PRF_INIT`; each field's default is R12's. `xlen` is the width of a
register value, an operand and an immediate (D2), `pcw` that of the PC (D3).
DESIGN CHOICE, log 4: they are launch inputs held in the state, so a statement about every state is about every setting. -/
structure Params where
  xlen : Nat := xlenDefault
  pcw : Nat := pcwDefault
  stallMode : StallMode := .retain
  faultCycleCompletes : Bool := false
  recoveryVariant : RecoveryVariant := .observed
deriving DecidableEq, Repr

/-- The widths R12 allows: `XLEN` at least 1 (D2), `PCW` at least 17 (D3). -/
abbrev Params.valid (p : Params) : Prop := 1 ≤ p.xlen ∧ pcwLeast ≤ p.pcw

end Sys2Proof.Config
end

