-- ==== Sys2Proof/Word.lean ====
section
/-! DEFINITION. The value types of `00_scope.md` rule R13 and `10_state.md`. The widths `XLEN` and `PCW` are arguments of a launch (R12), so a register
value, operand value or immediate (`uXLEN`, R34, R39) and a program index held in a register (`uPCW`, R41) have no type of their own: they are what R13
calls them, unsigned integers, of type `Nat`. `State.wordsFit` says that those of a state lie below `2^XLEN` and `2^PCW` (DESIGN CHOICE, logs 1 and 2). -/

namespace Sys2Proof

/-- A logical register number, `u5` (R31). -/
abbrev LReg := Fin Config.nlog

/-- A physical register number, `u6` (R34). -/
abbrev PReg := Fin Config.nphys

/-- One byte of a host's storage (R73). -/
abbrev Byte := BitVec 8

end Sys2Proof
end

