-- ==== Sys2Proof/Syntax.lean ====
section
/-! DEFINITION. The instruction set of `30_encoding.md`: the five operations, the ten instruction forms, the packed
form of a decoded instruction record, and what a program location holds. -/

namespace Sys2Proof

/-- The five operations (R3, R90, R93). -/
inductive Opcode where
  | add
  | sub
  | mulu
  | divu
  | remu
deriving DecidableEq, Repr

/-- The second operand of a decoded instruction record: a logical register or an immediate, never both (R90, R95). -/
inductive OperandB where
  | reg (r : LReg)
  | imm (v : Nat)
deriving DecidableEq, Repr

/-- A decoded instruction record (R90), one constructor for each form of the opcode map (R96). The originating PC is not part
of it; Fetch/Decode attaches it (R143). An immediate is a `uXLEN` (R95; `Instr.wellFormed`). -/
inductive Instr where
  | add (rd rs1 rs2 : LReg)
  | addi (rd rs1 : LReg) (imm : Nat)
  | sub (rd rs1 rs2 : LReg)
  | subImm (rd rs1 : LReg) (imm : Nat)
  | mulu (rd rs1 rs2 : LReg)
  | muluImm (rd rs1 : LReg) (imm : Nat)
  | divu (rd rs1 rs2 : LReg)
  | divuImm (rd rs1 : LReg) (imm : Nat)
  | remu (rd rs1 rs2 : LReg)
  | remuImm (rd rs1 : LReg) (imm : Nat)
deriving DecidableEq, Repr

/-- The record's `op` (R90). -/
def Instr.op : Instr → Opcode
  | .add _ _ _ => .add
  | .addi _ _ _ => .add
  | .sub _ _ _ => .sub
  | .subImm _ _ _ => .sub
  | .mulu _ _ _ => .mulu
  | .muluImm _ _ _ => .mulu
  | .divu _ _ _ => .divu
  | .divuImm _ _ _ => .divu
  | .remu _ _ _ => .remu
  | .remuImm _ _ _ => .remu

/-- The record's logical destination `rd` (R90, R94). -/
def Instr.rd : Instr → LReg
  | .add rd _ _ => rd
  | .addi rd _ _ => rd
  | .sub rd _ _ => rd
  | .subImm rd _ _ => rd
  | .mulu rd _ _ => rd
  | .muluImm rd _ _ => rd
  | .divu rd _ _ => rd
  | .divuImm rd _ _ => rd
  | .remu rd _ _ => rd
  | .remuImm rd _ _ => rd

/-- The record's logical source 1 `rs1` (R90, R94). -/
def Instr.rs1 : Instr → LReg
  | .add _ rs1 _ => rs1
  | .addi _ rs1 _ => rs1
  | .sub _ rs1 _ => rs1
  | .subImm _ rs1 _ => rs1
  | .mulu _ rs1 _ => rs1
  | .muluImm _ rs1 _ => rs1
  | .divu _ rs1 _ => rs1
  | .divuImm _ rs1 _ => rs1
  | .remu _ rs1 _ => rs1
  | .remuImm _ rs1 _ => rs1

/-- The record's second operand, `rs2` or `imm` (R90, R94, R95). -/
def Instr.srcB : Instr → OperandB
  | .add _ _ rs2 => .reg rs2
  | .addi _ _ imm => .imm imm
  | .sub _ _ rs2 => .reg rs2
  | .subImm _ _ imm => .imm imm
  | .mulu _ _ rs2 => .reg rs2
  | .muluImm _ _ imm => .imm imm
  | .divu _ _ rs2 => .reg rs2
  | .divuImm _ _ imm => .imm imm
  | .remu _ _ rs2 => .reg rs2
  | .remuImm _ _ imm => .imm imm

/-- The mnemonic of a form in the opcode map, as `opcode_table.json` spells it (R96). -/
def Instr.mnemonic : Instr → String
  | .add _ _ _ => "ADD"
  | .addi _ _ _ => "ADDI"
  | .sub _ _ _ => "SUB"
  | .subImm _ _ _ => "SUB_IMM"
  | .mulu _ _ _ => "MULU"
  | .muluImm _ _ _ => "MULU_IMM"
  | .divu _ _ _ => "DIVU"
  | .divuImm _ _ _ => "DIVU_IMM"
  | .remu _ _ _ => "REMU"
  | .remuImm _ _ _ => "REMU_IMM"

/-- A packed decoded instruction record: the control word `CW` and the immediate word `IMM`, `XLEN` bits wide (R92). -/
structure PackedDIR where
  cw : BitVec 32
  imm : Nat
deriving DecidableEq, Repr

/-- What one location of the program index space holds: a packed record, or an instruction text that the external decoder reads
when the location is fetched (R71, R144, R313). -/
inductive ProgItem where
  | packed (d : PackedDIR)
  | text (t : List Char)
deriving DecidableEq, Repr

end Sys2Proof
end

