-- ==== Sys2Proof/WellFormed.lean ====
section
/-! DEFINITION. The checks of `30_encoding.md` rule R97 on a packed record, one definition each, and of
`70_reset_and_hazards.md` rule R316 on a program. The register numbers of an `Instr` are 0 to 31 by their type (R94); its immediate is an `XLEN`-bit
word (R95) where `Instr.wellFormed` says so. -/

namespace Sys2Proof

/-- `CW[2:0]` (R92). -/
def PackedDIR.opField (d : PackedDIR) : BitVec 3 := d.cw.extractLsb' 0 3
/-- `CW[3]`, the `bimm` bit (R92). -/
def PackedDIR.bimmField (d : PackedDIR) : BitVec 1 := d.cw.extractLsb' 3 1
/-- `CW[8:4]` (R92). -/
def PackedDIR.rdField (d : PackedDIR) : BitVec 5 := d.cw.extractLsb' 4 5
/-- `CW[13:9]` (R92). -/
def PackedDIR.rs1Field (d : PackedDIR) : BitVec 5 := d.cw.extractLsb' 9 5
/-- `CW[18:14]` (R92). -/
def PackedDIR.rs2Field (d : PackedDIR) : BitVec 5 := d.cw.extractLsb' 14 5
/-- `CW[31:19]`, reserved (R92). -/
def PackedDIR.reservedField (d : PackedDIR) : BitVec 13 := d.cw.extractLsb' 19 13

/-- R97: `op <= 4`. -/
abbrev PackedDIR.opOk (d : PackedDIR) : Prop := d.opField.toNat ≤ 4
/-- R97: `CW[31:19] = 0`. -/
abbrev PackedDIR.reservedOk (d : PackedDIR) : Prop := d.reservedField = 0
/-- R97: if `bimm = 1` then `CW[18:14] = 0`. -/
abbrev PackedDIR.rs2Ok (d : PackedDIR) : Prop := d.bimmField = 1 → d.rs2Field = 0
/-- R97: if `bimm = 0` then `IMM = 0`. -/
abbrev PackedDIR.immOk (d : PackedDIR) : Prop := d.bimmField = 0 → d.imm = 0

/-- R92: `IMM` is `XLEN` bits wide. -/
abbrev PackedDIR.immFits (xlen : Nat) (d : PackedDIR) : Prop := d.imm < 2 ^ xlen

/-- R97: a packed record is canonical when all four hold. -/
abbrev PackedDIR.canonical (d : PackedDIR) : Prop := d.opOk ∧ d.reservedOk ∧ d.rs2Ok ∧ d.immOk

/-- A row of the opcode map: the `match` and `mask` of R96. -/
structure OpcodeRow where
  mnemonic : String
  pattern : BitVec 32
  mask : BitVec 32
deriving DecidableEq, Repr

/-- The opcode map of R96, row by row as `opcode_table.json` has it. -/
def opcodeMap : List OpcodeRow :=
  [⟨"ADD", 0x00000000, 0xFFF8000F⟩, ⟨"ADDI", 0x00000008, 0xFFFFC00F⟩,
   ⟨"SUB", 0x00000001, 0xFFF8000F⟩, ⟨"SUB_IMM", 0x00000009, 0xFFFFC00F⟩,
   ⟨"MULU", 0x00000002, 0xFFF8000F⟩, ⟨"MULU_IMM", 0x0000000A, 0xFFFFC00F⟩,
   ⟨"DIVU", 0x00000003, 0xFFF8000F⟩, ⟨"DIVU_IMM", 0x0000000B, 0xFFFFC00F⟩,
   ⟨"REMU", 0x00000004, 0xFFF8000F⟩, ⟨"REMU_IMM", 0x0000000C, 0xFFFFC00F⟩]

/-- A control word spells a row's form when it equals the row's pattern under the row's mask (R96). -/
abbrev OpcodeRow.spells (r : OpcodeRow) (cw : BitVec 32) : Prop := cw &&& r.mask = r.pattern

/-- An instruction of a core of width `xlen`: its immediate, if it has one, is an `XLEN`-bit word (R90, R95). -/
def Instr.wellFormed (xlen : Nat) (i : Instr) : Bool :=
  match i.srcB with
  | .reg _ => true
  | .imm v => v < 2 ^ xlen

/-- What a launch of width `xlen` may put at a location: a packed record whose `IMM` the width holds (R92, D2), or any text, whose literal's range the
decoder checks (R103). -/
def ProgItem.fits (xlen : Nat) : ProgItem → Bool
  | .packed d => d.imm < 2 ^ xlen
  | .text _ => true

/-- R71, R316: a launch may give at most 65536 instructions. -/
abbrev programFits (prog : List ProgItem) : Prop := prog.length ≤ Config.maxProgram

end Sys2Proof
end

