-- ==== Sys2Proof/Decode.lean ====
section
/-! DEFINITION. From bits, bytes and text to instructions, and back: the packed layout of `30_encoding.md` rules R92, R93 and R97,
the byte order of `20_memory.md` rule R73, and the assembler text of rules R101 to R103. -/

namespace Sys2Proof

/-- Why a program location does not decode (R97, R100, R102, R103). Safe: each ends the run with a fatal decode error, and an
`Error` run is one no claim rests on (R297). -/
inductive DecodeError where
  /-- `op` is 101, 110 or 111 (R93). -/
  | reservedOp
  /-- `CW[31:19]` is not 0 (R97). -/
  | reservedBits
  /-- `bimm = 1` with `CW[18:14]` not 0 (R97). -/
  | rs2WithImmediate
  /-- `bimm = 0` with `IMM` not 0 (R97). -/
  | immediateWithRegister
  /-- `IMM` has more than `XLEN` bits (R92): no packed record of this width. -/
  | immediateTooWide
  /-- Fewer bytes than one packed record. -/
  | truncated
  /-- The text's mnemonic is none of R102's. -/
  | unknownMnemonic
  /-- The text is not a mnemonic, a space and three operands (R101). -/
  | badForm
  /-- An operand is no register `x0` to `x31` (R103). -/
  | badRegister
  /-- The last operand is no decimal literal of R103's range. -/
  | badImmediate
deriving DecidableEq, Repr

/-- `trunc_N(v)`, that is `v mod 2^N` of a mathematical integer (R13). -/
def trunc (n : Nat) (v : Int) : Nat := (v % 2 ^ n).toNat

/-- A 5-bit field as a logical register number (R94). -/
def lregOfField (b : BitVec 5) : LReg := ⟨b.toNat, b.isLt⟩

/-- The register form of an `op` value (R93, R96). -/
def registerForm (op : BitVec 3) (rd rs1 rs2 : LReg) : Except DecodeError Instr :=
  match op.toNat with
  | 0 => .ok (.add rd rs1 rs2)
  | 1 => .ok (.sub rd rs1 rs2)
  | 2 => .ok (.mulu rd rs1 rs2)
  | 3 => .ok (.divu rd rs1 rs2)
  | 4 => .ok (.remu rd rs1 rs2)
  | _ => .error .reservedOp

/-- The immediate form of an `op` value (R93, R96). -/
def immediateForm (op : BitVec 3) (rd rs1 : LReg) (imm : Nat) : Except DecodeError Instr :=
  match op.toNat with
  | 0 => .ok (.addi rd rs1 imm)
  | 1 => .ok (.subImm rd rs1 imm)
  | 2 => .ok (.muluImm rd rs1 imm)
  | 3 => .ok (.divuImm rd rs1 imm)
  | 4 => .ok (.remuImm rd rs1 imm)
  | _ => .error .reservedOp

/-- The fields of a packed record read as one of the ten forms of R96; every record that is not canonical is refused (R97, R100). Which refusal
is named when several checks fail is a DESIGN CHOICE, log 10. -/
def decodeFields (d : PackedDIR) : Except DecodeError Instr :=
  if d.reservedField ≠ 0 then .error .reservedBits
  else if d.bimmField = 1 then
    if d.rs2Field ≠ 0 then .error .rs2WithImmediate
    else immediateForm d.opField (lregOfField d.rdField) (lregOfField d.rs1Field) d.imm
  else
    if d.imm ≠ 0 then .error .immediateWithRegister
    else registerForm d.opField (lregOfField d.rdField) (lregOfField d.rs1Field) (lregOfField d.rs2Field)

/-- The decoder of a packed record of width `xlen` (R92, R97). A record whose `IMM` the width does not hold, which no launch accepts, is refused
(DESIGN CHOICE, log 1). -/
def decodeDIR (xlen : Nat) (d : PackedDIR) : Except DecodeError Instr :=
  if d.immFits xlen then decodeFields d else .error .immediateTooWide

/-- The `op` value of an operation (R93). -/
def opBits : Opcode → BitVec 3
  | .add => 0
  | .sub => 1
  | .mulu => 2
  | .divu => 3
  | .remu => 4

/-- `CW` from its fields, the most significant first: reserved, `rs2`, `rs1`, `rd`, `bimm`, `op` (R92). -/
def controlWord (op : BitVec 3) (bimm : BitVec 1) (rd rs1 rs2 : BitVec 5) : BitVec 32 :=
  (0#13) ++ rs2 ++ rs1 ++ rd ++ bimm ++ op

/-- A logical register number as a 5-bit field (R94). -/
def fieldOfLReg (r : LReg) : BitVec 5 := BitVec.ofNat 5 r.val

/-- The encoder: the packed record of an instruction (R92, R93, R95). -/
def encode (i : Instr) : PackedDIR :=
  match i.srcB with
  | .reg rs2 => ⟨controlWord (opBits i.op) 0 (fieldOfLReg i.rd) (fieldOfLReg i.rs1) (fieldOfLReg rs2), 0⟩
  | .imm v => ⟨controlWord (opBits i.op) 1 (fieldOfLReg i.rd) (fieldOfLReg i.rs1) 0, v⟩

/-- The number of bytes of an immediate word. -/
def immBytes (xlen : Nat) : Nat := (xlen + 7) / 8

/-- `n` bytes of a number, the least significant first (R73). -/
def bytesLE : Nat → Nat → List Byte
  | 0, _ => []
  | n + 1, v => BitVec.ofNat 8 v :: bytesLE n (v / 256)

/-- The number a list of bytes spells, the least significant first (R73). -/
def natLE : List Byte → Nat
  | [] => 0
  | b :: rest => b.toNat + 256 * natLE rest

/-- A packed record as bytes: `CW`, then `IMM`, each little-endian (R73, D24). DEDUCED, log 11: `CW` lies lower. -/
def PackedDIR.toBytes (xlen : Nat) (d : PackedDIR) : List Byte := bytesLE 4 d.cw.toNat ++ bytesLE (immBytes xlen) d.imm

/-- The packed record at the head of a list of bytes, and the bytes after it; none where fewer are left. -/
def PackedDIR.ofBytes (xlen : Nat) (bs : List Byte) : Option (PackedDIR × List Byte) :=
  if bs.length < 4 + immBytes xlen then none
  else some (⟨BitVec.ofNat 32 (natLE (bs.take 4)), natLE ((bs.drop 4).take (immBytes xlen))⟩, bs.drop (4 + immBytes xlen))

/-- The decoder on bytes: the instruction at their head and the bytes after it. -/
def decodeBytes (xlen : Nat) (bs : List Byte) : Except DecodeError (Instr × List Byte) :=
  match PackedDIR.ofBytes xlen bs with
  | none => .error .truncated
  | some (d, rest) =>
    match decodeDIR xlen d with
    | .ok i => .ok (i, rest)
    | .error e => .error e

/-- The bytes of an instruction (R73, R92). -/
def encodeBytes (xlen : Nat) (i : Instr) : List Byte := (encode i).toBytes xlen

/-- A text split at its first space (R101). -/
def splitAtSpace : List Char → Option (List Char × List Char)
  | [] => none
  | c :: rest =>
    if c = ' ' then some ([], rest)
    else
      match splitAtSpace rest with
      | none => none
      | some (before, after) => some (c :: before, after)

/-- A text split at its commas (R101). -/
def splitAtCommas : List Char → List (List Char)
  | [] => [[]]
  | c :: rest =>
    if c = ',' then [] :: splitAtCommas rest
    else
      match splitAtCommas rest with
      | [] => [[c]]
      | first :: others => (c :: first) :: others

/-- A text without its leading spaces. -/
def dropSpaces : List Char → List Char
  | [] => []
  | c :: rest => if c = ' ' then dropSpaces rest else c :: rest

/-- The value of a decimal digit (R103). -/
def digitValue (c : Char) : Option Nat :=
  if 48 ≤ c.toNat ∧ c.toNat ≤ 57 then some (c.toNat - 48) else none

/-- The number a text of decimal digits spells, on from `acc`. -/
def digitsFrom (acc : Nat) : List Char → Option Nat
  | [] => some acc
  | c :: rest =>
    match digitValue c with
    | none => none
    | some d => digitsFrom (10 * acc + d) rest

/-- A decimal number of one digit or more. -/
def parseDigits : List Char → Option Nat
  | [] => none
  | c :: rest => digitsFrom 0 (c :: rest)

/-- A register name, `x0` to `x31` (R103); no name has a leading zero. -/
def parseRegister : List Char → Option LReg
  | ['x', c] =>
    match parseDigits [c] with
    | some n => if h : n < Config.nlog then some ⟨n, h⟩ else none
    | none => none
  | ['x', c1, c2] =>
    if c1 = '0' then none
    else
      match parseDigits [c1, c2] with
      | some n => if h : n < Config.nlog then some ⟨n, h⟩ else none
      | none => none
  | _ => none

/-- A decimal literal with an optional leading minus sign (R103). -/
def parseInteger : List Char → Option Int
  | '-' :: digits =>
    match parseDigits digits with
    | some n => some (-(n : Int))
    | none => none
  | digits =>
    match parseDigits digits with
    | some n => some (n : Int)
    | none => none

/-- An immediate operand: R103's range, then `trunc_XLEN` (R95). -/
def parseImmediate (xlen : Nat) (t : List Char) : Option Nat :=
  match parseInteger t with
  | none => none
  | some i =>
    if -(2 ^ (xlen - 1) : Int) ≤ i ∧ i ≤ 2 ^ xlen - 1 then some (trunc xlen i) else none

/-- The register form of a text (R101): destination first. -/
def textRegisterForm (form : LReg → LReg → LReg → Instr) (a b c : List Char) : Except DecodeError Instr :=
  match parseRegister a, parseRegister b, parseRegister c with
  | some rd, some rs1, some rs2 => .ok (form rd rs1 rs2)
  | _, _, _ => .error .badRegister

/-- The immediate form of a text (R101): destination first. -/
def textImmediateForm (xlen : Nat) (form : LReg → LReg → Nat → Instr) (a b c : List Char) : Except DecodeError Instr :=
  match parseRegister a, parseRegister b with
  | some rd, some rs1 =>
    match parseImmediate xlen c with
    | some v => .ok (form rd rs1 v)
    | none => .error .badImmediate
  | _, _ => .error .badRegister

/-- The mnemonics of R102: `add`, `sub`, `mulu`, `divu`, `remu` take the register form, `addi` the immediate form, and any other
fails fatally. -/
def textForm (xlen : Nat) (mnemonic a b c : List Char) : Except DecodeError Instr :=
  if mnemonic = ['a', 'd', 'd'] then textRegisterForm .add a b c
  else if mnemonic = ['s', 'u', 'b'] then textRegisterForm .sub a b c
  else if mnemonic = ['m', 'u', 'l', 'u'] then textRegisterForm .mulu a b c
  else if mnemonic = ['d', 'i', 'v', 'u'] then textRegisterForm .divu a b c
  else if mnemonic = ['r', 'e', 'm', 'u'] then textRegisterForm .remu a b c
  else if mnemonic = ['a', 'd', 'd', 'i'] then textImmediateForm xlen .addi a b c
  else .error .unknownMnemonic

/-- The text decoder of R101 to R103: a mnemonic, one space, three operands with commas between them. DESIGN CHOICE, log 12: spaces
may follow a comma, and stand nowhere else. -/
def decodeText (xlen : Nat) (t : List Char) : Except DecodeError Instr :=
  match splitAtSpace t with
  | none => .error .badForm
  | some (mnemonic, operands) =>
    match splitAtCommas operands with
    | [a, b, c] => textForm xlen mnemonic a (dropSpaces b) (dropSpaces c)
    | _ => .error .badForm

/-- A decimal digit as a character. -/
def digitChar (d : Nat) : Char := Char.ofNat (48 + d)

/-- A register's name, `x0` to `x31` (R103). -/
def registerText (r : LReg) : List Char :=
  if r.val < 10 then ['x', digitChar r.val] else ['x', digitChar (r.val / 10), digitChar (r.val % 10)]

/-- A text of R101's shape: a mnemonic, one space, and three operands with a comma and a space between them. -/
def instructionText (mnemonic a b c : List Char) : List Char :=
  mnemonic ++ [' '] ++ a ++ [',', ' '] ++ b ++ [',', ' '] ++ c

/-- The decoder the core sees: what a program location holds, decoded (R91, R144). -/
def decodeItem (xlen : Nat) : ProgItem → Except DecodeError Instr
  | .packed d => decodeDIR xlen d
  | .text t => decodeText xlen t

/-- The packed record of an opcode-table word at the default `XLEN`: bits 31 to 0 are `CW`, the bits above them `IMM` (DEDUCED, log 11), and every bit at or
above `nbits` is 0. -/
def tableBytes (nbits w : Nat) : List Byte := bytesLE (4 + immBytes Config.xlenDefault) (w % 2 ^ nbits)

/-- What the decoder of the default width reads from an opcode-table word laid out as bytes. -/
def decodeTableWord (nbits w : Nat) : Option Instr :=
  match decodeBytes Config.xlenDefault (tableBytes nbits w) with
  | .ok (i, _) => some i
  | .error _ => none

end Sys2Proof
end

