-- ==== Sys2Proof/Machine/State.lean ====
section
/-! DEFINITION. The state of `10_state.md` rule R30 as plain data, what a launch gives the core, the snapshot of `40_cycle.md`
rule R126, the reasons a step can stop, the state after reset, and one named update for each component. -/

namespace Sys2Proof.Machine

/-- The position of the core in its run (R47). DESIGN CHOICE, log 9: no step stores `error`; a fatal decode error is the outcome
`Fault.decodeError` (R297). -/
inductive Mode where
  | run
  | recover
  | recoverFinal
  | recoverClear
  | done
  | error
deriving DecidableEq, Repr

/-- A decode buffer entry: a PC and its decoded instruction (R43). -/
structure DBEntry where
  /-- `uPCW`. -/
  pc : Nat
  instr : Instr
deriving DecidableEq, Repr

/-- An Active List entry (R37). -/
structure ALEntry where
  done : Bool
  exc : Bool
  logDest : LReg
  oldDest : PReg
  /-- `uPCW`. -/
  pc : Nat
deriving DecidableEq, Repr

/-- An Issue Queue entry (R39). -/
structure IQEntry where
  destReg : PReg
  opAReady : Bool
  opATag : PReg
  /-- `uXLEN`. -/
  opAValue : Nat
  opBReady : Bool
  opBTag : PReg
  /-- `uXLEN`. -/
  opBValue : Nat
  opCode : Opcode
  /-- `uPCW`. -/
  pc : Nat
deriving DecidableEq, Repr

/-- A snapshot: exactly the ten fields of R126, in its order. -/
structure Snapshot where
  activeList : List ALEntry
  busyBits : Vector Bool Config.nphys
  decodedPCs : List Nat
  exception : Bool
  exceptionPC : Nat
  freeList : List PReg
  issueQueue : List IQEntry
  pc : Nat
  physicalRegisters : Vector Nat Config.nphys
  registerMap : Vector PReg Config.nlog
deriving DecidableEq, Repr

/-- What the host gives at launch (R130, R313): the program, `PRF_INIT` and the other parameters of R12, the widths `XLEN` and `PCW` among them. The default of `prfInit` is all
zero (R12, D5; DESIGN CHOICE, log 5). -/
structure LaunchInput where
  prog : List ProgItem := []
  /-- 64 values, `uXLEN`. -/
  prfInit : Vector Nat Config.nphys := Vector.replicate Config.nphys 0
  params : Config.Params := {}
deriving DecidableEq, Repr

/-- The core's state: the components of R30 in its order, then the launch inputs the core only reads (R12, R71, R313), then the
snapshots handed to the trace sink so far, oldest first (R127; DESIGN CHOICE, log 8). -/
structure State where
  /-- `uPCW` (R41). -/
  pc : Nat
  db : List DBEntry
  rat : Vector PReg Config.nlog
  /-- 64 values, `uXLEN` (R34). -/
  prf : Vector Nat Config.nphys
  busy : Vector Bool Config.nphys
  fl : List PReg
  al : List ALEntry
  iq : List IQEntry
  execLatch : List IQEntry
  exception : Bool
  /-- `uPCW` (R46). -/
  exceptionPC : Nat
  mode : Mode
  prog : List ProgItem
  params : Config.Params
  trace : List Snapshot
deriving DecidableEq, Repr

/-- Why a step stops with a fault. -/
inductive Fault where
  /-- The fatal decode error at a program index (R144, R297), raised by Fetch/Decode. Safe: the run ends in `Error`, and no claim
  about a run rests on an `Error` run (R128). -/
  | decodeError (index : Nat) (why : DecodeError)
  /-- `Model fault(ALMiss)` (R202, D25), raised by Execute when no Active List entry has the executed entry's PC. Safe: a fault of
  the model, which no run reaches (R322, R323). -/
  | alMiss
deriving DecidableEq, Repr

/-- Why nothing is done. -/
inductive Refusal where
  /-- An instruction without a meaning yet, raised by an arm of `exec`. Safe. No arm raises it in this model. -/
  | notModelled (mnemonic : String)
  /-- A step asked for in `DONE` or `ERROR`, where there is no step (R120), raised by `step`. Safe. -/
  | runOver
  /-- A launch with more than 65536 instructions (R316), raised by `launch`. Safe. -/
  | programTooLong
  /-- A launch whose widths are not R12's, or whose initial values or immediates its `XLEN` does not hold (D2, D3; log 1), raised by `launch`. Safe. -/
  | valueOutOfWidth
deriving DecidableEq, Repr

/-- What a step, a stage or a meaning answers. -/
abbrev Result := Host.Outcome State Fault Refusal

/-- `N`, the program length (R71). -/
def State.progLen (s : State) : Nat := s.prog.length

/-- `DecodedPCs`, the PCs of the decode buffer (R43). -/
def State.decodedPCs (s : State) : List Nat := s.db.map DBEntry.pc

/-- The copy of the observable state that the core hands to the trace sink (R126). -/
def State.snapshot (s : State) : Snapshot :=
  { activeList := s.al, busyBits := s.busy, decodedPCs := s.decodedPCs, exception := s.exception,
    exceptionPC := s.exceptionPC, freeList := s.fl, issueQueue := s.iq, pc := s.pc,
    physicalRegisters := s.prf, registerMap := s.rat }

/-- The Free List at reset, 32 at the head to 63 at the tail (R36). -/
def freeListInit : List PReg := (List.finRange Config.nphys).drop Config.nlog

/-- The identity mapping (R33). -/
def identityMap : Vector PReg Config.nlog := Vector.ofFn fun r => Fin.castLE (by decide) r

/-- The state that reset leaves (R52, R310; log 6), before anything is emitted. -/
def State.afterReset (inp : LaunchInput) : State :=
  { pc := 0, db := [], rat := identityMap, prf := inp.prfInit, busy := Vector.replicate Config.nphys false, fl := freeListInit,
    al := [], iq := [], execLatch := [], exception := false, exceptionPC := 0, mode := .run,
    prog := inp.prog, params := inp.params, trace := [] }

/-- The state after launch: reset, then the snapshot of the reset state (R125, R310). -/
def State.launched (inp : LaunchInput) : State :=
  { State.afterReset inp with trace := [(State.afterReset inp).snapshot] }

/-- The machine right after reset with every launch input at its default and nothing loaded (R12, R52, R310). -/
def State.reset : State := State.launched {}

/-- `PC <- v`. -/
def State.withPc (s : State) (v : Nat) : State := { s with pc := v }
/-- `DB <- v`. -/
def State.withDb (s : State) (v : List DBEntry) : State := { s with db := v }
/-- `RAT[r] <- p` (R14). -/
def State.writeRat (s : State) (r : LReg) (p : PReg) : State := { s with rat := s.rat.set r.val p }
/-- `PRF[p] <- v` (R14). -/
def State.writePrf (s : State) (p : PReg) (v : Nat) : State := { s with prf := s.prf.set p.val v }
/-- `Busy[p] <- b` (R14). -/
def State.writeBusy (s : State) (p : PReg) (b : Bool) : State := { s with busy := s.busy.set p.val b }
/-- `FL <- v`. -/
def State.withFl (s : State) (v : List PReg) : State := { s with fl := v }
/-- `AL <- v`. -/
def State.withAl (s : State) (v : List ALEntry) : State := { s with al := v }
/-- `IQ <- v`. -/
def State.withIq (s : State) (v : List IQEntry) : State := { s with iq := v }
/-- `ExecLatch <- v`. -/
def State.withExecLatch (s : State) (v : List IQEntry) : State := { s with execLatch := v }
/-- `Exception <- v`. -/
def State.withException (s : State) (v : Bool) : State := { s with exception := v }
/-- `ExceptionPC <- v`. -/
def State.withExceptionPC (s : State) (v : Nat) : State := { s with exceptionPC := v }
/-- `Mode <- v`. -/
def State.withMode (s : State) (v : Mode) : State := { s with mode := v }
/-- The trace sink holds `v`. -/
def State.withTrace (s : State) (v : List Snapshot) : State := { s with trace := v }
/-- The program index space holds `v`: only a launch or a load does this (R80). -/
def State.withProg (s : State) (v : List ProgItem) : State := { s with prog := v }

end Sys2Proof.Machine
end

