-- ==== Sys2Proof/Machine/Ops.lean ====
section
/-! DEFINITION. The named operations the blocks share: reading the register structures (R14, R31), reading the program index space
(R70, R71), launching, pushing a freed register, TAKING THE FAULT and ending the recovery, and handing out a snapshot. -/

namespace Sys2Proof.Machine

/-- One operation after another: the second runs on the state the first leaves (R122). -/
def andThen (o : Result) (f : State → Result) : Result :=
  match o with
  | .next s => f s
  | .fault r => .fault r
  | .refused r => .refused r

/-- `RAT[r]` (R14, R33). -/
def State.mapOf (s : State) (r : LReg) : PReg := s.rat[r.val]
/-- `PRF[p]` (R14, R34). -/
def State.prfAt (s : State) (p : PReg) : Nat := s.prf[p.val]
/-- `Busy[p]` (R14, R35). -/
def State.isBusy (s : State) (p : PReg) : Bool := s.busy[p.val]
/-- The value of a logical register, `PRF[RAT[r]]` (R31); `x0` is like any other (R32). -/
def State.logical (s : State) (r : LReg) : Nat := s.prfAt (s.mapOf r)

/-- `Prog(i)`: what location `i` of the program index space holds; no location is at `N` or above (R15, R71). -/
def Memory.read (prog : List ProgItem) (i : Nat) : Option ProgItem := prog[i]?

/-- The program index space holds at most 65536 locations (R71). The list is dense, so equal programs are equal data. -/
abbrev Memory.wf (prog : List ProgItem) : Prop := programFits prog

/-- The host places an item at location `i` and loads a program that ends there; locations below `i` that held nothing hold the same
item. No rule of the core does this (R80); it is the load of `State.withFetchWord`. -/
def Memory.loadAt (prog : List ProgItem) (i : Nat) (item : ProgItem) : List ProgItem :=
  prog.take i ++ List.replicate (i - prog.length) item ++ [item]

/-- The widths are R12's, and `XLEN` holds every initial value and every packed immediate (D2, D3). -/
abbrev LaunchInput.fits (inp : LaunchInput) : Prop :=
  inp.params.valid ∧ (∀ p : PReg, inp.prfInit[p.val] < 2 ^ inp.params.xlen) ∧ inp.prog.all (ProgItem.fits inp.params.xlen) = true

/-- What a launch accepts: a program of at most 65536 instructions (R316), and values that fit. -/
abbrev LaunchInput.accepted (inp : LaunchInput) : Prop := programFits inp.prog ∧ inp.fits

/-- Launch (R130, R313): refused when the program is longer than 65536 (R316) or a value does not fit its width (D2, D3; log 1), else the reset state and its
snapshot (R125, R310). -/
def launch (inp : LaunchInput) : Result :=
  if programFits inp.prog then
    if inp.fits then .next (State.launched inp) else .refused .valueOutOfWidth
  else .refused .programTooLong

/-- `push_back(FL, p)` (R14, R36). -/
def State.pushFree (s : State) (p : PReg) : State := s.withFl (s.fl ++ [p])

/-- `FAULT_VECTOR` as a program index (R10, R72). -/
def faultVector : Nat := Config.faultVector

/-- TAKING THE FAULT (R253, R275): the PC of the faulting Active List head is saved, the PC goes to 65536, the fault indicator is set.
Nothing else changes. -/
def State.takeFault (s : State) (faultingPC : Nat) : State :=
  ((s.withExceptionPC faultingPC).withPc faultVector).withException true

/-- THE END OF THE RECOVERY (R287): the fault indicator is cleared. There is no return from the fault (R288). -/
def State.clearFault (s : State) : State := s.withException false

/-- `emit Snapshot()` (R15, R126). -/
def State.emit (s : State) : State := s.withTrace (s.trace ++ [s.snapshot])

end Sys2Proof.Machine
end

