-- ==== Sys2Proof/Machine/Operands.lean ====
section
/-! DEFINITION. Operand forms: what Rename/Dispatch captures of a source (`42_rename_dispatch.md` rules R161 and R162), and what a
wakeup makes of a waiting operand (`44_execute_forward.md` rule R205). -/

namespace Sys2Proof.Machine

/-- One operand of an Issue Queue entry: ready flag, tag and value (R39, C8). -/
structure Operand where
  ready : Bool
  tag : PReg
  value : Nat
deriving DecidableEq, Repr

/-- A physical source: ready when it is not busy; its value read whatever its readiness; its tag 0 when ready (R162). -/
def physicalOperand (s : State) (p : PReg) : Operand :=
  { ready := !s.isBusy p, tag := if s.isBusy p then p else 0, value := s.prfAt p }

/-- A logical source, through the RAT (R161). -/
def registerOperand (s : State) (r : LReg) : Operand := physicalOperand s (s.mapOf r)

/-- An immediate: always ready, tag 0, unscaled (R95, R162). -/
def immediateOperand (v : Nat) : Operand := { ready := true, tag := 0, value := v }

/-- Operand B in either form (R161, R162). -/
def operandB (s : State) : OperandB → Operand
  | .reg r => registerOperand s r
  | .imm v => immediateOperand v

/-- Operand A of an entry. -/
def IQEntry.operandA (e : IQEntry) : Operand := ⟨e.opAReady, e.opATag, e.opAValue⟩
/-- Operand B of an entry. -/
def IQEntry.operandB (e : IQEntry) : Operand := ⟨e.opBReady, e.opBTag, e.opBValue⟩

/-- A broadcast to one operand: a not-ready operand with this tag takes the value and clears its tag; a ready one is not changed,
whatever its tag field (R205). -/
def wakeOperand (tag : PReg) (v : Nat) (o : Operand) : Operand :=
  if o.ready = false ∧ o.tag = tag then { ready := true, tag := 0, value := v } else o

/-- A broadcast to one Issue Queue entry, both operands (R205). -/
def wakeEntry (tag : PReg) (v : Nat) (e : IQEntry) : IQEntry :=
  let a := wakeOperand tag v e.operandA
  let b := wakeOperand tag v e.operandB
  { e with opAReady := a.ready, opATag := a.tag, opAValue := a.value,
           opBReady := b.ready, opBTag := b.tag, opBValue := b.value }

/-- An entry is ready to issue when both operands are (R180). -/
def IQEntry.ready (e : IQEntry) : Bool := e.opAReady && e.opBReady

end Sys2Proof.Machine
end

