-- ==== Sys2Proof/Machine/Flags.lean ====
section
/-! DEFINITION. The hardware has no condition codes (R48). The only status an instruction sets is its Active List entry's `Done` and
`Exc` (R37, R202); this file holds them, and the fault flag of a division. -/

namespace Sys2Proof.Machine

/-- The fault flag of DIVU and REMU (R227, R229, R270): the divisor is 0, whatever the dividend. -/
def divideByZero (b : Nat) : Bool := b == 0

/-- The Active List entry whose PC is `pc`, marked `Done` with `Exc = f`; none where no entry has that PC (R202).
DEDUCED, log 13: of several such entries, which no run has (R323), the oldest. -/
def markDone (pc : Nat) (f : Bool) : List ALEntry → Option (List ALEntry)
  | [] => none
  | a :: rest =>
    if a.pc = pc then some ({ a with done := true, exc := f } :: rest)
    else
      match markDone pc f rest with
      | none => none
      | some rest' => some (a :: rest')

/-- The head may retire: it is `Done` and has no fault (R251). -/
def ALEntry.retirable (a : ALEntry) : Bool := a.done && !a.exc

end Sys2Proof.Machine
end

