-- ==== Sys2Proof/Machine/Commit.lean ====
section
/-! DEFINITION. The commit half of commit_reorder_buffer_recovery_fsm, `46_commit.md` rules R250 to R256. -/

namespace Sys2Proof.Machine

/-- The loop of R256 over the Active List `al` of `s`: the state, and whether a fault was detected. The fault test comes first (R253), then
retirement (R251, R252); an incomplete head stops it (R254). -/
def commitLoop : List ALEntry → State → State × Bool
  | [], s => (s, false)
  | h :: rest, s =>
    if h.exc then (s.takeFault h.pc, true)
    else if h.done then commitLoop rest ((s.withAl rest).pushFree h.oldDest)
    else (s, false)

/-- `Commit()` (R256). -/
def commit (s : State) : State × Bool := commitLoop s.al s

end Sys2Proof.Machine
end

