-- ==== Sys2Proof/Machine/Alu.lean ====
section
/-! DEFINITION. What each operation computes, `45_alu_instructions.md` rules R220 to R231: exact arithmetic on unsigned integers, then
reduced to the width `xlen` where the rule says `trunc_XLEN` (R13). -/

namespace Sys2Proof.Machine

/-- A result and its fault flag (R201). -/
structure AluResult where
  value : Nat
  fault : Bool
deriving DecidableEq, Repr

/-- ADD (R221, R222): `trunc_XLEN(a + b)`, no fault. -/
def aluAdd (xlen : Nat) (a b : Nat) : AluResult := ⟨trunc xlen (a + b), false⟩

/-- SUB (R223, R224): `trunc_XLEN(a - b)`, no fault. -/
def aluSub (xlen : Nat) (a b : Nat) : AluResult := ⟨trunc xlen (a - b), false⟩

/-- MULU (R225, R226): `trunc_XLEN(a * b)`, the low word of the unsigned product, no fault. -/
def aluMulu (xlen : Nat) (a b : Nat) : AluResult := ⟨trunc xlen (a * b), false⟩

/-- DIVU (R227, R228): the floor of `a / b`; on a zero divisor 0 with the fault flag. -/
def aluDivu (a b : Nat) : AluResult :=
  if divideByZero b then ⟨0, true⟩ else ⟨a / b, false⟩

/-- REMU (R229, R230): the remainder of that division; on a zero divisor 0 with the fault flag. -/
def aluRemu (a b : Nat) : AluResult :=
  if divideByZero b then ⟨0, true⟩ else ⟨a % b, false⟩

/-- `ALU(op, a, b)` at width `xlen` (R201). -/
def alu (xlen : Nat) (op : Opcode) (a b : Nat) : AluResult :=
  match op with
  | .add => aluAdd xlen a b
  | .sub => aluSub xlen a b
  | .mulu => aluMulu xlen a b
  | .divu => aluDivu a b
  | .remu => aluRemu a b

end Sys2Proof.Machine
end

