-- ==== Sys2Proof/Machine/Execute.lean ====
section
/-! DEFINITION. The block execute_alu_forward_unit, `44_execute_forward.md` rules R200 to R208. -/

namespace Sys2Proof.Machine

/-- The result and fault flag of a latch entry at width `xlen` (R201). -/
def IQEntry.result (xlen : Nat) (e : IQEntry) : AluResult := alu xlen e.opCode e.opAValue e.opBValue

/-- The register file after an entry executes: the value is written in every case (R204), and only a result without a fault clears the
Busy bit (R203) and wakes the queue (R205). -/
def State.writeback (s : State) (dest : PReg) (r : AluResult) : State :=
  if r.fault then s.writePrf dest r.value
  else ((s.writeBusy dest false).writePrf dest r.value).withIq (s.iq.map (wakeEntry dest r.value))

/-- One entry of the latch executed (R208); without its Active List entry, the model's fault (R202). -/
def executeOne (e : IQEntry) (s : State) : Result :=
  let r := e.result s.params.xlen
  match markDone e.pc r.fault s.al with
  | none => .fault .alMiss
  | some al => .next ((s.withAl al).writeback e.destReg r)

/-- The latch's entries in order (R200, D28). -/
def executeLoop : List IQEntry → State → Result
  | [], s => .next s
  | e :: rest, s => andThen (executeOne e s) (executeLoop rest)

/-- `Execute()` (R208): every entry of the latch, then the latch is empty. -/
def execute (s : State) : Result :=
  andThen (executeLoop s.execLatch s) fun t => .next (t.withExecLatch [])

end Sys2Proof.Machine
end

