-- ==== Sys2Proof/Machine/FetchDecode.lean ====
section
/-! DEFINITION. The block superscalar_fetch_decode_stage, `41_fetch_decode.md` rules R140 to R146. -/

namespace Sys2Proof.Machine

/-- The number of instructions a fetch reads: none past the end, at most four (R141). -/
def fetchCount (pc n : Nat) : Nat := if pc < n then min Config.width (n - pc) else 0

/-- Locations `i` to `i + k - 1` decoded, each with its index as its PC (R143); the first that does not decode ends it (R144). A
location at `N` or above holds nothing and is not asked for (R141). -/
def fetchFrom (xlen : Nat) (prog : List ProgItem) : Nat → Nat → Except Fault (List DBEntry)
  | 0, _ => .ok []
  | k + 1, i =>
    match Memory.read prog i with
    | none => .ok []
    | some item =>
      match decodeItem xlen item with
      | .error why => .error (.decodeError i why)
      | .ok instr =>
        match fetchFrom xlen prog k (i + 1) with
        | .error r => .error r
        | .ok rest => .ok (⟨i, instr⟩ :: rest)

/-- `FetchDecode()` (R146); `PC` never wraps (R41). The fatal decode error is the fault outcome, log 9 (R144, R297). -/
def fetchDecode (s : State) : Result :=
  if s.db.isEmpty then
    let k := fetchCount s.pc s.progLen
    match fetchFrom s.params.xlen s.prog k s.pc with
    | .error r => .fault r
    | .ok entries => .next ((s.withDb entries).withPc (s.pc + k))
  else .next s

end Sys2Proof.Machine
end

