-- ==== Sys2Proof/Machine/Issue.lean ====
section
/-! DEFINITION. The block issue_queue_dynamic_scheduler, `43_issue.md` rules R180 to R187. -/

namespace Sys2Proof.Machine

/-- The scan of R186 with room for `n` more entries: those selected and those kept, each in queue order (R181, R182). -/
def selectReady : Nat → List IQEntry → List IQEntry × List IQEntry
  | _, [] => ([], [])
  | 0, e :: rest => ([], e :: rest)
  | n + 1, e :: rest =>
    if e.ready then
      let (sel, keep) := selectReady n rest
      (e :: sel, keep)
    else
      let (sel, keep) := selectReady (n + 1) rest
      (sel, e :: keep)

/-- `Issue()` (R186). -/
def issue (s : State) : State :=
  let (sel, keep) := selectReady Config.width s.iq
  (s.withIq keep).withExecLatch sel

end Sys2Proof.Machine
end

