-- ==== Sys2Proof/Machine/Recovery.lean ====
section
/-! DEFINITION. The recovery half of commit_reorder_buffer_recovery_fsm, `60_exceptions.md` rules R280 to R287. -/

namespace Sys2Proof.Machine

/-- The observed squash of one entry (R282): its old destination goes to the back of the Free List. -/
def State.squashObserved (s : State) (e : ALEntry) : State := s.pushFree e.oldDest

/-- The corrected squash of one entry (R285): the mapping it displaced is restored, and the register the RAT held goes to the back of the
Free List with its Busy bit cleared. -/
def State.squashCorrected (s : State) (e : ALEntry) : State :=
  ((s.writeRat e.logDest e.oldDest).pushFree (s.mapOf e.logDest)).writeBusy (s.mapOf e.logDest) false

/-- The squash of one entry under the launched variant (R281). -/
def State.squash (s : State) (e : ALEntry) : State :=
  match s.params.recoveryVariant with
  | .observed => s.squashObserved e
  | .corrected => s.squashCorrected e

/-- Up to `n` entries taken from the tail of the Active List, youngest first, each squashed as it is removed (R281, D11). -/
def squashTail : Nat → State → State
  | 0, s => s
  | n + 1, s =>
    match s.al.getLast? with
    | none => s
    | some e => squashTail n ((s.withAl s.al.dropLast).squash e)

/-- `RecoverStep()` (R281). -/
def recoverStep (s : State) : State :=
  let t := (squashTail Config.squashWidth (s.withIq [])).emit
  if t.al.isEmpty then t.withMode .recoverFinal else t

/-- The `RECOVER_FINAL` step (R286). -/
def recoverFinalStep (s : State) : State := s.emit.withMode .recoverClear

/-- The `RECOVER_CLEAR` step (R287). -/
def recoverClearStep (s : State) : State := s.clearFault.emit.withMode .done

end Sys2Proof.Machine
end

