-- ==== Sys2Proof/Machine/Rename.lean ====
section
/-! DEFINITION. Renaming and dispatching one instruction, `42_rename_dispatch.md` rules R161 to R166: the operation every meaning
shares. -/

namespace Sys2Proof.Machine

/-- The PC of the instruction presented to Rename/Dispatch: that of the first entry of the decode buffer (R160, R165). DESIGN CHOICE,
log 7: with an empty buffer, which no step has here, the PC register. -/
def State.presentedPC (s : State) : Nat :=
  match s.db with
  | e :: _ => e.pc
  | [] => s.pc

/-- The Active List entry Dispatch creates (R165): `OldDest` is the mapping the destination had before (R164). -/
def newALEntry (s : State) (rd : LReg) : ALEntry :=
  { done := false, exc := false, logDest := rd, oldDest := s.mapOf rd, pc := s.presentedPC }

/-- The Issue Queue entry Dispatch creates (R165): operands as resolved before this instruction's own renaming (R161, R162). -/
def newIQEntry (s : State) (op : Opcode) (rs1 : LReg) (src : OperandB) (pnew : PReg) : IQEntry :=
  let a := registerOperand s rs1
  let b := operandB s src
  { destReg := pnew, opAReady := a.ready, opATag := a.tag, opAValue := a.value,
    opBReady := b.ready, opBTag := b.tag, opBValue := b.value, opCode := op, pc := s.presentedPC }

/-- Allocation and record creation (R164, R165), atomic (R166): with `pnew` the head of the Free List, the destination is mapped to it,
it becomes busy, and both records are appended. -/
def State.allocate (s : State) (op : Opcode) (rd rs1 : LReg) (src : OperandB) (pnew : PReg) (rest : List PReg) : State :=
  ((((s.withFl rest).writeRat rd pnew).writeBusy pnew true).withAl (s.al ++ [newALEntry s rd])).withIq
    (s.iq ++ [newIQEntry s op rs1 src pnew])

/-- Rename and dispatch one instruction; with an empty Free List it stalls and writes nothing (R163). -/
def renameDispatch (op : Opcode) (rd rs1 : LReg) (src : OperandB) (s : State) : State :=
  match s.fl with
  | [] => s
  | pnew :: rest => s.allocate op rd rs1 src pnew rest

end Sys2Proof.Machine
end

