-- ==== Sys2Proof/Machine/Integer.lean ====
section
/-! DEFINITION. The integer family: the meaning of each of the ten forms (R96), at the one place of the machine where an instruction
is still a decoded record, Rename/Dispatch (log 7). What the operation named in the record computes is `alu` (R201, R220 to R231), which
Execute calls on the operands captured here. -/

namespace Sys2Proof.Machine

/-- ADD (R221): operands `x[rs1]` and `x[rs2]`, result `trunc(a + b)`. -/
def execAdd (rd rs1 rs2 : LReg) (s : State) : Result := .next (renameDispatch .add rd rs1 (.reg rs2) s)

/-- ADDI (R222): operands `x[rs1]` and the immediate, result `trunc(a + b)`. -/
def execAddi (rd rs1 : LReg) (imm : Nat) (s : State) : Result := .next (renameDispatch .add rd rs1 (.imm imm) s)

/-- SUB (R223): operands `x[rs1]` and `x[rs2]`, result `trunc(a - b)`. -/
def execSub (rd rs1 rs2 : LReg) (s : State) : Result := .next (renameDispatch .sub rd rs1 (.reg rs2) s)

/-- SUB_IMM (R224): operands `x[rs1]` and the immediate, result `trunc(a - b)`. -/
def execSubImm (rd rs1 : LReg) (imm : Nat) (s : State) : Result := .next (renameDispatch .sub rd rs1 (.imm imm) s)

/-- MULU (R225): operands `x[rs1]` and `x[rs2]`, result `trunc(a * b)`. -/
def execMulu (rd rs1 rs2 : LReg) (s : State) : Result := .next (renameDispatch .mulu rd rs1 (.reg rs2) s)

/-- MULU_IMM (R226): operands `x[rs1]` and the immediate, result `trunc(a * b)`. -/
def execMuluImm (rd rs1 : LReg) (imm : Nat) (s : State) : Result := .next (renameDispatch .mulu rd rs1 (.imm imm) s)

/-- DIVU (R227): operands `x[rs1]` and `x[rs2]`, result `a div b`, a fault on `b = 0`. -/
def execDivu (rd rs1 rs2 : LReg) (s : State) : Result := .next (renameDispatch .divu rd rs1 (.reg rs2) s)

/-- DIVU_IMM (R228): operands `x[rs1]` and the immediate, result `a div b`, a fault on `b = 0`. -/
def execDivuImm (rd rs1 : LReg) (imm : Nat) (s : State) : Result := .next (renameDispatch .divu rd rs1 (.imm imm) s)

/-- REMU (R229): operands `x[rs1]` and `x[rs2]`, result `a mod b`, a fault on `b = 0`. -/
def execRemu (rd rs1 rs2 : LReg) (s : State) : Result := .next (renameDispatch .remu rd rs1 (.reg rs2) s)

/-- REMU_IMM (R230): operands `x[rs1]` and the immediate, result `a mod b`, a fault on `b = 0`. -/
def execRemuImm (rd rs1 : LReg) (imm : Nat) (s : State) : Result := .next (renameDispatch .remu rd rs1 (.imm imm) s)

end Sys2Proof.Machine
end

