-- ==== Sys2Proof/Machine/Dispatch.lean ====
section
/-! DEFINITION. The meaning of every instruction form, one arm per constructor. -/

namespace Sys2Proof.Machine

def exec (i : Instr) (s : State) : Host.Outcome State Fault Refusal :=
  match i with
  | .add rd rs1 rs2 => Sys2Proof.Machine.execAdd rd rs1 rs2 s
  | .addi rd rs1 imm => Sys2Proof.Machine.execAddi rd rs1 imm s
  | .sub rd rs1 rs2 => Sys2Proof.Machine.execSub rd rs1 rs2 s
  | .subImm rd rs1 imm => Sys2Proof.Machine.execSubImm rd rs1 imm s
  | .mulu rd rs1 rs2 => Sys2Proof.Machine.execMulu rd rs1 rs2 s
  | .muluImm rd rs1 imm => Sys2Proof.Machine.execMuluImm rd rs1 imm s
  | .divu rd rs1 rs2 => Sys2Proof.Machine.execDivu rd rs1 rs2 s
  | .divuImm rd rs1 imm => Sys2Proof.Machine.execDivuImm rd rs1 imm s
  | .remu rd rs1 rs2 => Sys2Proof.Machine.execRemu rd rs1 rs2 s
  | .remuImm rd rs1 imm => Sys2Proof.Machine.execRemuImm rd rs1 imm s

end Sys2Proof.Machine
end

