-- ==== Sys2Proof/Machine/RenameDispatch.lean ====
section
/-! DEFINITION. The block rename_dispatch_RAT_allocator, `42_rename_dispatch.md` rules R160, R163, R168 and R170: the decode buffer's
instructions given to their meanings one at a time, in program order. -/

namespace Sys2Proof.Machine

/-- What the decode buffer holds after Dispatch: the stalled entries, kept or lost (R168). -/
def State.stalledBuffer (s : State) (remaining : List DBEntry) : List DBEntry :=
  match s.params.stallMode with
  | .retain => remaining
  | .drop => []

/-- The loop of R170 over the entries not yet taken, `remaining` being those stalled so far (R163). Each instruction's meaning sees a
buffer whose first entry is its own. -/
def dispatchLoop : List DBEntry → List DBEntry → State → Result
  | [], remaining, s => .next (s.withDb (s.stalledBuffer remaining))
  | e :: rest, remaining, s =>
    andThen (exec e.instr (s.withDb (e :: rest)))
      (dispatchLoop rest (if s.fl.isEmpty then remaining ++ [e] else remaining))

/-- `Dispatch()` (R170). -/
def dispatch (s : State) : Result := dispatchLoop s.db [] s

end Sys2Proof.Machine
end

