-- ==== Sys2Proof/Machine/Cycle.lean ====
section
/-! DEFINITION. One RUN cycle, `40_cycle.md` rules R121, R122 and R124. -/

namespace Sys2Proof.Machine

/-- The main loop is over: nothing to fetch, nothing to dispatch, nothing to retire (R124). -/
def State.drained (s : State) : Bool := s.progLen ≤ s.pc && s.db.isEmpty && s.al.isEmpty

/-- The stages after Commit, in order, each on what the one before left (R121, R122). -/
def laterStages (s : State) : Result :=
  andThen (execute s) fun t => andThen (dispatch (issue t)) fetchDecode

/-- The end of a cycle: its snapshot, and recovery next when Commit detected a fault (R121, R277). -/
def finishCycle (fault : Bool) (s : State) : State :=
  if fault then s.emit.withMode .recover else s.emit

/-- One cycle: Commit, then the later stages unless a fault was detected and the fault cycle does not complete (R121, R277). -/
def runCycle (s : State) : Result :=
  match commit s with
  | (t, fault) =>
    if fault && !t.params.faultCycleCompletes then .next (finishCycle true t)
    else andThen (laterStages t) fun u => .next (finishCycle fault u)

/-- The RUN arm of R121: the run ends, with no snapshot, or one cycle runs. -/
def runStep (s : State) : Result :=
  if s.drained then .next (s.withMode .done) else runCycle s

end Sys2Proof.Machine
end

