-- ==== Sys2Proof/Machine/Step.lean ====
section
/-! DEFINITION. The step of `40_cycle.md` rules R120 and R121, and the load that lets the next step run one given instruction. -/

namespace Sys2Proof.Machine

/-- `Step()` (R121). In `DONE` and `ERROR` there is no step (R120): refused, log 9. -/
def step (s : State) : Host.Outcome State Fault Refusal :=
  match s.mode with
  | .run => runStep s
  | .recover => .next (recoverStep s)
  | .recoverFinal => .next (recoverFinalStep s)
  | .recoverClear => .next (recoverClearStep s)
  | .done => .refused .runOver
  | .error => .refused .runOver

/-- The packed record of an opcode-table word at width `xlen`: `CW` in bits 31 to 0, `IMM` above, and 0 at or above `nbits`. -/
def tableItem (xlen nbits w : Nat) : PackedDIR :=
  let v := w % 2 ^ nbits
  ⟨BitVec.ofNat 32 v, v / 2 ^ 32 % 2 ^ xlen⟩

/-- The machine with an opcode-table word as the instruction its next step runs (log 14): the program ends with it at the index in
`PC`, and it has been fetched, so that it stands in the decode buffer, which Rename/Dispatch reads, and `PC` is past it. A word that does not decode cannot be fetched: it is only
placed at `PC`, where the next step finds it. -/
def State.withFetchWord (s : State) (nbits w : Nat) : State :=
  let item := ProgItem.packed (tableItem s.params.xlen nbits w)
  let loaded := (s.withProg (Memory.loadAt s.prog s.pc item)).withMode .run
  match decodeItem s.params.xlen item with
  | .ok i => (loaded.withDb [⟨s.pc, i⟩]).withPc (s.pc + 1)
  | .error _ => loaded.withDb []

end Sys2Proof.Machine
end

