-- ==== Sys2Proof/Machine/Interfaces.lean ====
section
/-! DEFINITION. The block interfaces of `40_cycle.md` rules R131 to R136: each block as a function from its input signals to its output
signals, the signals a state gives it, and what its outputs drive. The stages themselves are the definitions the step calls; the statements
say that a block's outputs, driven into the state, are its stage. A `valid` bit is an `Option`, up to four records a block puts out a list (log 15). -/

namespace Sys2Proof.Machine

/-! ### superscalar_fetch_decode_stage (R132) -/

/-- One program read port's answer (R132). -/
structure ProgramPort where
  cw : BitVec 32
  imm : Nat
  decodeOk : Bool
deriving DecidableEq, Repr

/-- The inputs of the fetch block (R132). -/
structure FetchIn where
  pc : Nat
  n : Nat
  dbEmpty : Bool
  stallMode : Config.StallMode
  ports : Vector ProgramPort Config.width
deriving DecidableEq, Repr

/-- A decode-buffer slot on a block's ports (R132, R133). -/
structure DBSlot where
  pc : Nat
  cw : BitVec 32
  imm : Nat
deriving DecidableEq, Repr

/-- The outputs of the fetch block (R132). -/
structure FetchOut where
  fetchEn : Bool
  k : Nat
  pcNext : Nat
  slots : Vector (Option DBSlot) Config.width
  fatalDecodeError : Bool
deriving DecidableEq, Repr

/-- The answer of a read port for location `i` (R132): the record's packed form, with `decode_ok`. DESIGN CHOICE, log 20: for a location that does not
decode and for an index at `N` or above, of which R132 says nothing, `cw` and `imm` are 0 and `decode_ok` is low. -/
def programPort (xlen : Nat) (prog : List ProgItem) (i : Nat) : ProgramPort :=
  match Memory.read prog i with
  | none => ⟨0, 0, false⟩
  | some item =>
    match decodeItem xlen item with
    | .ok instr => ⟨(encode instr).cw, (encode instr).imm, true⟩
    | .error _ => ⟨0, 0, false⟩

/-- The fetch block's input signals (R132). -/
def State.fetchIn (s : State) : FetchIn :=
  { pc := s.pc, n := s.progLen, dbEmpty := s.db.isEmpty, stallMode := s.params.stallMode,
    ports := Vector.ofFn fun j => programPort s.params.xlen s.prog (s.pc + j.val) }

/-- The fetch block (R132, R141 to R144). DESIGN CHOICE, log 20: while `fatal_decode_error` is high, when R132 says nothing of the other outputs, `k`,
`pc_next` and the slots are what they would be without the error; nothing is driven from them, because the run is over (R144). -/
def fetchBlock (i : FetchIn) : FetchOut :=
  let k := if i.dbEmpty then fetchCount i.pc i.n else 0
  { fetchEn := i.dbEmpty, k := k, pcNext := i.pc + k,
    slots := Vector.ofFn fun j =>
      if j.val < k then some ⟨i.pc + j.val, i.ports[j.val].cw, i.ports[j.val].imm⟩ else none
    fatalDecodeError := (List.finRange Config.width).any fun j => decide (j.val < k) && !i.ports[j.val].decodeOk }

/-- A decode-buffer entry on a port. -/
def DBEntry.slot (e : DBEntry) : DBSlot := ⟨e.pc, (encode e.instr).cw, (encode e.instr).imm⟩

/-! ### rename_dispatch_RAT_allocator (R133) -/

/-- The inputs of the rename block but for its read ports (R133): the four slots, the RAT, the Free List's head entries, four at most, and its length. -/
structure RenameRequest where
  slots : Vector (Option DBSlot) Config.width
  rat : Vector PReg Config.nlog
  flHead : List PReg
  flLength : Nat
deriving DecidableEq, Repr

/-- The number of read ports of each kind, two for each slot (R133). -/
abbrev readPorts : Nat := 2 * Config.width

/-- The inputs of the rename block (R133): with the answers of the eight Busy and the eight PRF read ports. Port `2 j` is source 1 of slot `j`, port `2 j + 1` its
source 2 (DESIGN CHOICE, log 15). -/
structure RenameIn extends RenameRequest where
  busyPorts : Vector Bool readPorts
  prfPorts : Vector Nat readPorts
deriving DecidableEq, Repr

/-- The outputs of the rename block (R133), in slot order. -/
structure RenameOut where
  ratWrites : List (LReg × PReg)
  pops : Nat
  busySets : List PReg
  alAppends : List ALEntry
  iqAppends : List IQEntry
  consumed : Nat
deriving DecidableEq, Repr

/-- The record in a slot, with its PC: the fields of its `cw` and `imm` (R92). A slot that holds no canonical record, which no fetch fills, counts as
not valid (DESIGN CHOICE, log 20). -/
def DBSlot.record (s : DBSlot) : Option DBEntry :=
  match decodeFields ⟨s.cw, s.imm⟩ with
  | .ok i => some ⟨s.pc, i⟩
  | .error _ => none

/-- The records of the valid slots, in order. -/
def RenameRequest.records (q : RenameRequest) : List DBEntry := q.slots.toList.filterMap fun v => v.bind DBSlot.record

/-- The records that are dispatched, each with the register it takes: in slot order as far as the Free List reaches; the others stall (R163, R164). -/
def RenameRequest.grants (q : RenameRequest) : List (DBEntry × PReg) := q.records.zip (q.flHead.take q.flLength)

/-- The RAT writes of the slots before slot `j`, oldest first. -/
def RenameRequest.writesBefore (q : RenameRequest) (j : Nat) : List (LReg × PReg) := (q.grants.take j).map fun g => (g.1.instr.rd, g.2)

/-- A RAT read with earlier writes bypassed, the latest first (R167). -/
def bypassMap (rat : Vector PReg Config.nlog) (writes : List (LReg × PReg)) (r : LReg) : PReg :=
  match writes.reverse.find? (fun w => w.1 = r) with
  | some w => w.2
  | none => rat[r.val]

/-- The physical register that slot `j` finds for a logical one: the RAT's, with the writes of the slots before it bypassed (R161, R167). -/
def RenameRequest.mapBefore (q : RenameRequest) (j : Nat) (r : LReg) : PReg := bypassMap q.rat (q.writesBefore j) r

/-- Where read port `k` reads (R133): at the physical source of its slot. DESIGN CHOICE, log 20: a port whose slot is not valid reads register 0, and the second
port of an immediate form reads the mapping of `x0`, which its `rs2` field of 0 names; neither answer is used. -/
def RenameRequest.readAddress (q : RenameRequest) (k : Nat) : PReg :=
  match q.records[k / 2]? with
  | none => 0
  | some e =>
    if k % 2 = 0 then q.mapBefore (k / 2) e.instr.rs1
    else
      match e.instr.srcB with
      | .reg r => q.mapBefore (k / 2) r
      | .imm _ => q.mapBefore (k / 2) 0

/-- The rename block's input signals (R133). -/
def State.renameIn (s : State) : RenameIn :=
  let q : RenameRequest :=
    { slots := Vector.ofFn fun j => s.db[j.val]?.map DBEntry.slot, rat := s.rat, flHead := s.fl.take Config.width, flLength := s.fl.length }
  { q with
    busyPorts := Vector.ofFn fun k => s.isBusy (q.readAddress k.val)
    prfPorts := Vector.ofFn fun k => s.prfAt (q.readAddress k.val) }

/-- A source from its read ports, with the Busy sets of the earlier slots bypassed (R162, R167). -/
def RenameIn.operand (i : RenameIn) (j k : Nat) (h : k < readPorts) : Operand :=
  let p := i.readAddress k
  let busy := ((i.writesBefore j).map Prod.snd).contains p || i.busyPorts[k]
  { ready := !busy, tag := if busy then p else 0, value := i.prfPorts[k] }

/-- The Issue Queue entry that slot `j` appends (R162, R165). -/
def RenameIn.iqAppend (i : RenameIn) (j : Fin Config.width) (e : DBEntry) (pnew : PReg) : IQEntry :=
  let a := i.operand j.val (2 * j.val) (by have := j.isLt; simp only [readPorts]; omega)
  let b := match e.instr.srcB with
    | .reg _ => i.operand j.val (2 * j.val + 1) (by have := j.isLt; simp only [readPorts]; omega)
    | .imm v => immediateOperand v
  { destReg := pnew, opAReady := a.ready, opATag := a.tag, opAValue := a.value,
    opBReady := b.ready, opBTag := b.tag, opBValue := b.value, opCode := e.instr.op, pc := e.pc }

/-- The rename block (R133): every slot at once, each behind the bypass from the earlier ones. -/
def renameBlock (i : RenameIn) : RenameOut :=
  { ratWrites := i.writesBefore Config.width, pops := i.grants.length, busySets := i.grants.map Prod.snd,
    alAppends := i.grants.mapIdx fun j g => ⟨false, false, g.1.instr.rd, i.mapBefore j g.1.instr.rd, g.1.pc⟩,
    iqAppends := (List.finRange Config.width).filterMap fun j => i.grants[j.val]?.map fun g => i.iqAppend j g.1 g.2,
    consumed := i.grants.length }

/-- What the rename block's outputs drive: the RAT writes and Busy sets in slot order, the pops and appends, and the slots not consumed
kept or lost (R133, R168). -/
def State.driveRename (s : State) (o : RenameOut) : State :=
  { s with
    rat := o.ratWrites.foldl (fun m w => m.set w.1.val w.2) s.rat
    busy := o.busySets.foldl (fun b p => b.set p.val true) s.busy
    fl := s.fl.drop o.pops
    al := s.al ++ o.alAppends
    iq := s.iq ++ o.iqAppends
    db := s.stalledBuffer (s.db.drop o.consumed) }

/-! ### issue_queue_dynamic_scheduler (R134) -/

/-- The outputs of the issue block (R134). -/
structure IssueOut where
  removal : List Bool
  selected : List IQEntry
deriving DecidableEq, Repr

/-- The removal mask with room for `n` entries: a ready entry is removed while there is room (R181). -/
def removalMask : Nat → List IQEntry → List Bool
  | _, [] => []
  | n, e :: rest => if e.ready && n != 0 then true :: removalMask (n - 1) rest else false :: removalMask n rest

/-- The entries of a queue whose mask bit is `b`, in order. -/
def maskedEntries (b : Bool) (mask : List Bool) (q : List IQEntry) : List IQEntry :=
  ((mask.zip q).filter fun x => x.1 == b).map Prod.snd

/-- The issue block (R134). -/
def issueBlock (iq : List IQEntry) : IssueOut :=
  let mask := removalMask Config.width iq
  { removal := mask, selected := maskedEntries true mask iq }

/-- What the issue block's outputs drive (R134). -/
def State.driveIssue (s : State) (o : IssueOut) : State :=
  (s.withIq (maskedEntries false o.removal s.iq)).withExecLatch o.selected

/-! ### execute_alu_forward_unit (R135) -/

/-- A result bus (R135). -/
structure ResultBus where
  pc : Nat
  dest : PReg
  value : Nat
  fault : Bool
deriving DecidableEq, Repr

/-- The execute block at width `xlen`: one bus for each latch entry (R135). -/
def executeBlock (xlen : Nat) (latch : List IQEntry) : List ResultBus :=
  latch.map fun e => ⟨e.pc, e.destReg, (e.result xlen).value, (e.result xlen).fault⟩

/-- What one result bus drives (R135): the PRF write port always, the Busy clear port and the wakeup broadcast without a fault, and the
Active List mark by PC match. -/
def State.driveBus (s : State) (b : ResultBus) : State :=
  { s with
    prf := s.prf.set b.dest.val b.value
    busy := if b.fault then s.busy else s.busy.set b.dest.val false
    al := s.al.map fun a => if a.pc = b.pc then { a with done := true, exc := b.fault } else a
    iq := if b.fault then s.iq else s.iq.map (wakeEntry b.dest b.value) }

/-- What the execute block's buses drive, and the latch emptied (R200). -/
def State.driveExecute (s : State) (buses : List ResultBus) : State :=
  (buses.foldl State.driveBus s).withExecLatch []

/-! ### commit_reorder_buffer_recovery_fsm (R136) -/

/-- The outputs of the commit half in RUN (R136). -/
structure CommitOut where
  retired : Nat
  flPushes : List PReg
  faultDetected : Bool
  pcRedirect : Nat
  exceptionSet : Bool
  exceptionPC : Nat
deriving DecidableEq, Repr

/-- The commit half (R136, R251 to R255): how many head entries retire, and whether the head behind them has a fault. DESIGN CHOICE, log 20: without a
fault, when R136 says nothing of them, `pc_redirect` is 65536 and `exception_pc` the waiting head's PC, or 0 with no head; nothing is driven from them. -/
def commitBlock (al : List ALEntry) : CommitOut :=
  let retiring := al.takeWhile ALEntry.retirable
  let head := (al.dropWhile ALEntry.retirable).head?
  let faulty := match head with
    | some h => h.exc
    | none => false
  { retired := retiring.length, flPushes := retiring.map ALEntry.oldDest, faultDetected := faulty,
    pcRedirect := faultVector, exceptionSet := faulty,
    exceptionPC := match head with
      | some h => h.pc
      | none => 0 }

/-- What the commit half's outputs drive; the redirect and the exception registers only with a fault (R136, R253). -/
def State.driveCommit (s : State) (o : CommitOut) : State :=
  { s with
    al := s.al.drop o.retired
    fl := s.fl ++ o.flPushes
    pc := if o.faultDetected then o.pcRedirect else s.pc
    exception := if o.exceptionSet then true else s.exception
    exceptionPC := if o.faultDetected then o.exceptionPC else s.exceptionPC }

/-- The outputs of the recovery half in RECOVER (R136). -/
structure RecoverOut where
  iqFlush : Bool
  squashed : Nat
  flPushes : List PReg
  ratWrites : List (LReg × PReg)
  busyClears : List PReg
deriving DecidableEq, Repr

/-- One squashed entry's outputs under `Corrected`, on top of the younger ones' (R285): the register to free is the RAT's, with the restores of the younger ones bypassed. -/
def correctedOut (rat : Vector PReg Config.nlog) (o : RecoverOut) (e : ALEntry) : RecoverOut :=
  let pnew := bypassMap rat o.ratWrites e.logDest
  { o with flPushes := o.flPushes ++ [pnew], ratWrites := o.ratWrites ++ [(e.logDest, e.oldDest)],
           busyClears := o.busyClears ++ [pnew] }

/-- The recovery half in RECOVER (R136, R281): up to four entries from the tail, youngest first. DESIGN CHOICE, log 15: R136 lists the Active List and `Mode` as
inputs and does not say where the `Corrected` squash gets `RAT[LogDest]` (R285); here the RAT and `RECOVERY_VARIANT` are inputs too, and `Mode` is no argument but
picks between the block's three functions, `commitBlock` in RUN, this one in RECOVER and `exceptionClear` in RECOVER_CLEAR. -/
def recoverBlock (v : Config.RecoveryVariant) (rat : Vector PReg Config.nlog) (al : List ALEntry) : RecoverOut :=
  let gone := al.reverse.take Config.squashWidth
  match v with
  | .observed => ⟨true, gone.length, gone.map ALEntry.oldDest, [], []⟩
  | .corrected => gone.foldl (correctedOut rat) ⟨true, gone.length, [], [], []⟩

/-- What the recovery half's outputs drive (R136, R281). -/
def State.driveRecover (s : State) (o : RecoverOut) : State :=
  { s with
    iq := if o.iqFlush then [] else s.iq
    al := s.al.take (s.al.length - o.squashed)
    fl := s.fl ++ o.flPushes
    rat := o.ratWrites.foldl (fun m w => m.set w.1.val w.2) s.rat
    busy := o.busyClears.foldl (fun b p => b.set p.val false) s.busy }

/-- The one output of the recovery half in RECOVER_CLEAR, `exception_clear` (R136, R287): high in that mode only. -/
def exceptionClear (m : Mode) : Bool := m == .recoverClear

end Sys2Proof.Machine
end

