-- ==== Sys2Proof/Safety.lean ====
section
/-! DEFINITION. The terms the statements use: the invariants of `70_reset_and_hazards.md` rules R320 to R326, what one instruction's dispatch and
its passage through the pipeline leave, and the sequential model of rule R324. A safe step is one that ends in no fault; a model fault (R16) is `Fault.alMiss`, or a state that breaks `State.Inv` or `State.withinCapacity`
(`93_implementation_defined.md` section 2, log 16). -/

namespace Sys2Proof.Machine

/-! ### Invariants -/

/-- R321: the Free List, the RAT's range and the Active List's old destinations are together each physical register once. -/
abbrev State.registersPartition (s : State) : Prop :=
  (s.fl ++ s.rat.toList ++ s.al.map ALEntry.oldDest).Perm (List.finRange Config.nphys)

/-- R11, `93_implementation_defined.md` section 2: neither queue holds more than 32 entries. -/
abbrev State.withinCapacity (s : State) : Prop := s.al.length ≤ Config.capacity ∧ s.iq.length ≤ Config.capacity

/-- The program indices in flight or decoded, oldest first (R323). -/
abbrev State.orderedPCs (s : State) : List Nat := s.al.map ALEntry.pc ++ s.db.map DBEntry.pc

/-- R323 and what it rests on: the PCs of the Active List and then the decode buffer strictly increase, in RUN all lie below `PC`, and `PC` is at most
`N` (R41), and there with `Retain` the PCs and then `PC` are consecutive; a fault flag comes with `Done` (R202); decode buffer and latch hold at most four (R43, R44). -/
abbrev State.pipelineOrdered (s : State) : Prop :=
  s.orderedPCs.Pairwise (· < ·) ∧ programFits s.prog ∧ s.db.length ≤ Config.width ∧ s.execLatch.length ≤ Config.width ∧
  (∀ a ∈ s.al, a.exc = true → a.done = true) ∧
  (s.mode = .run → s.pc ≤ s.progLen ∧ (∀ a ∈ s.al, a.pc < s.pc) ∧ (∀ e ∈ s.db, e.pc < s.pc) ∧
    (s.params.stallMode = .retain → (s.orderedPCs ++ [s.pc]).IsChain fun a b => b = a + 1))

/-- R322, first part, and R40: in RUN the waiting and the issued entries are, one to one by PC, the Active List entries that are not `Done`; the queue and
the latch are each in program order, and what is in the latch is ready (R180). -/
abbrev State.entriesLive (s : State) : Prop :=
  s.mode = .run →
    ((s.iq ++ s.execLatch).map IQEntry.pc).Nodup ∧ (s.iq.map IQEntry.pc).Pairwise (· < ·) ∧
    (s.execLatch.map IQEntry.pc).Pairwise (· < ·) ∧ (∀ e ∈ s.execLatch, e.ready = true) ∧
    (∀ e ∈ s.iq ++ s.execLatch, ∃ a ∈ s.al, a.pc = e.pc ∧ a.done = false) ∧
    (∀ a ∈ s.al, a.done = false → ∃ e ∈ s.iq ++ s.execLatch, e.pc = a.pc)

/-- The register each Active List entry renamed its destination to: what the next entry for the same logical register displaces, and where there is none the RAT's mapping
(R164). -/
def destinations : List ALEntry → Vector PReg Config.nlog → List PReg
  | [], _ => []
  | a :: rest, rat =>
    (match rest.find? (fun b => b.logDest = a.logDest) with
      | some b => b.oldDest
      | none => rat[a.logDest.val]) :: destinations rest rat

/-- The Active List entries of a state, each with its destination. -/
abbrev State.alDestinations (s : State) : List (ALEntry × PReg) := s.al.zip (destinations s.al s.rat)

/-- In RUN an entry that waits or is issued has its Active List entry's destination (R164, R165). -/
abbrev State.destinationsAgree (s : State) : Prop :=
  s.mode = .run → ∀ e ∈ s.iq ++ s.execLatch, ∃ x ∈ s.alDestinations, x.1.pc = e.pc ∧ x.2 = e.destReg

/-- R322, last part: in RUN a register is busy exactly when it is the destination of a dispatched instruction that has not executed without fault. -/
abbrev State.busyExact (s : State) : Prop :=
  s.mode = .run → ∀ p : PReg, s.isBusy p = true ↔ ∃ x ∈ s.alDestinations, x.2 = p ∧ (x.1.done = false ∨ x.1.exc = true)

/-- An operand of the entry with PC `pc` that is not ready waits on the destination of an older instruction that has not executed without fault
(R326); a ready one has tag 0 (R39). -/
abbrev State.operandSound (s : State) (pc : Nat) (o : Operand) : Prop :=
  (o.ready = false → ∃ x ∈ s.alDestinations, x.2 = o.tag ∧ x.1.pc < pc ∧ (x.1.done = false ∨ x.1.exc = true)) ∧
  (o.ready = true → o.tag = 0)

/-- R326: in RUN no wakeup is lost. -/
abbrev State.waitersSound (s : State) : Prop :=
  s.mode = .run → ∀ q ∈ s.iq, s.operandSound q.pc q.operandA ∧ s.operandSound q.pc q.operandB

/-- An Issue Queue or latch entry of the widths `xlen` and `pcw`: its operand values are `uXLEN`, its PC a `uPCW` (R13, R39). -/
abbrev IQEntry.fits (p : Config.Params) (e : IQEntry) : Prop := e.opAValue < 2 ^ p.xlen ∧ e.opBValue < 2 ^ p.xlen ∧ e.pc < 2 ^ p.pcw

/-- The widths are R12's, every register value, operand value and decoded immediate is a `uXLEN`, and every PC a `uPCW` (R13, R34, R37, R39, R41, R43, R44,
R46; the form is log 1's and log 2's). -/
abbrev State.wordsFit (s : State) : Prop :=
  s.params.valid ∧ (∀ p : PReg, s.prfAt p < 2 ^ s.params.xlen) ∧ (∀ e ∈ s.iq ++ s.execLatch, e.fits s.params) ∧
  (∀ e ∈ s.db, e.pc < 2 ^ s.params.pcw ∧ e.instr.wellFormed s.params.xlen = true) ∧ (∀ a ∈ s.al, a.pc < 2 ^ s.params.pcw) ∧
  s.pc < 2 ^ s.params.pcw ∧ s.exceptionPC < 2 ^ s.params.pcw

/-- R320 to R323 and R326 together, and R13's widths. -/
abbrev State.Inv (s : State) : Prop :=
  s.registersPartition ∧ s.pipelineOrdered ∧ s.entriesLive ∧ s.destinationsAgree ∧ s.busyExact ∧ s.waitersSound ∧ s.wordsFit

/-! ### One instruction -/

/-- What dispatching one instruction leaves when the Free List is `p :: rest`: the effect of R161, R162, R164 and R165, and everything else as
it was. -/
abbrev DispatchEffect (s t : State) (op : Opcode) (rd rs1 : LReg) (src : OperandB) (p : PReg) (rest : List PReg) : Prop :=
  t.fl = rest ∧ t.mapOf rd = p ∧ (∀ r, r ≠ rd → t.mapOf r = s.mapOf r) ∧
  t.isBusy p = true ∧ (∀ q, q ≠ p → t.isBusy q = s.isBusy q) ∧
  t.al = s.al ++ [⟨false, false, rd, s.mapOf rd, s.presentedPC⟩] ∧
  (∃ e, t.iq = s.iq ++ [e] ∧ e.destReg = p ∧ e.opCode = op ∧ e.pc = s.presentedPC ∧
    e.opAReady = !s.isBusy (s.mapOf rs1) ∧ e.opAValue = s.logical rs1 ∧
    e.opATag = (if s.isBusy (s.mapOf rs1) then s.mapOf rs1 else 0) ∧
    match src with
    | .reg rs2 => e.opBReady = !s.isBusy (s.mapOf rs2) ∧ e.opBValue = s.logical rs2 ∧
        e.opBTag = (if s.isBusy (s.mapOf rs2) then s.mapOf rs2 else 0)
    | .imm v => e.opBReady = true ∧ e.opBValue = v ∧ e.opBTag = 0) ∧
  t.prf = s.prf ∧ t.pc = s.pc ∧ t.db = s.db ∧ t.execLatch = s.execLatch ∧ t.exception = s.exception ∧
  t.exceptionPC = s.exceptionPC ∧ t.mode = s.mode ∧ t.prog = s.prog ∧ t.params = s.params ∧ t.trace = s.trace

/-- A RUN state whose only instructions are those of the decode buffer, with nothing more to fetch, no register of the RAT busy, and the Free List
starting with registers the RAT does not map. -/
abbrev State.onlyDecoded (s : State) (batch : List DBEntry) (free rest : List PReg) : Prop :=
  s.mode = .run ∧ s.db = batch ∧ s.al = [] ∧ s.iq = [] ∧ s.execLatch = [] ∧ s.fl = free ++ rest ∧ free.Nodup ∧
  s.progLen ≤ s.pc ∧ (∀ r, s.isBusy (s.mapOf r) = false) ∧ (∀ r, s.mapOf r ∉ free)

/-- The operand B value of an instruction before it is dispatched (R95, R162). -/
def State.valueB (s : State) : OperandB → Nat
  | .reg r => s.logical r
  | .imm v => v

/-- What four cycles leave of `s` when the one instruction with destination `rd` retires with the value `v` in register `p`: logical `rd` reads `v`, every
other logical register what it read; the displaced register is freed; the pipeline is empty; the fault registers, `PC`, the mode and the launch inputs are as they were. -/
abbrev RetiredWith (s t : State) (rd : LReg) (v : Nat) (p : PReg) (rest : List PReg) : Prop :=
  t.logical rd = v ∧ (∀ r, r ≠ rd → t.logical r = s.logical r) ∧ t.mapOf rd = p ∧ (∀ r, r ≠ rd → t.mapOf r = s.mapOf r) ∧
  t.fl = rest ++ [s.mapOf rd] ∧ (∀ q, q ≠ p → t.prfAt q = s.prfAt q) ∧ t.isBusy p = false ∧ (∀ q, q ≠ p → t.isBusy q = s.isBusy q) ∧
  t.db = [] ∧ t.al = [] ∧ t.iq = [] ∧ t.execLatch = [] ∧ t.pc = s.pc ∧ t.exception = s.exception ∧ t.exceptionPC = s.exceptionPC ∧
  t.mode = .run ∧ t.prog = s.prog ∧ t.params = s.params ∧ t.trace.length = s.trace.length + 4

/-- The instruction alone in the pipeline: its meaning answers a next state, the three cycles after it carry it to retirement, and the four cycles from `s` do
the same and leave `RetiredWith` of a value with the property `P` (R123, R319). -/
abbrev RetiresAs (i : Instr) (s : State) (p : PReg) (rest : List PReg) (P : Nat → Prop) : Prop :=
  ∃ u t v, exec i s = .next u ∧ Host.Core.run Sys2Proof.core 3 (u.withDb []).emit = .next t ∧
    Host.Core.run Sys2Proof.core 4 s = .next t ∧ RetiredWith s t i.rd v p rest ∧ P v

/-- What the four cycles of a faulting instruction leave of `s`: the fault cycle has taken the fault (R253), the entry stands `Done` and faulting at the Active List
head, the destination register holds 0 and stays busy (R203, R204), and recovery is next (R277). -/
abbrev FaultedWith (s t : State) (rd : LReg) (pc : Nat) (p : PReg) (rest : List PReg) : Prop :=
  t.mode = .recover ∧ t.exception = true ∧ t.exceptionPC = pc ∧ t.pc = 65536 ∧
  t.al = [⟨true, true, rd, s.mapOf rd, pc⟩] ∧ t.fl = rest ∧ t.mapOf rd = p ∧ (∀ r, r ≠ rd → t.mapOf r = s.mapOf r) ∧
  t.prfAt p = 0 ∧ (∀ q, q ≠ p → t.prfAt q = s.prfAt q) ∧ t.isBusy p = true ∧ (∀ q, q ≠ p → t.isBusy q = s.isBusy q) ∧
  t.db = [] ∧ t.iq = [] ∧ t.execLatch = [] ∧ t.prog = s.prog ∧ t.params = s.params ∧ t.trace.length = s.trace.length + 4

/-- The instruction alone in the pipeline faults: its meaning answers a next state, and the three cycles after it, as the four from `s`, end with the fault taken. -/
abbrev FaultsAlone (i : Instr) (s : State) (pc : Nat) (p : PReg) (rest : List PReg) : Prop :=
  ∃ u t, exec i s = .next u ∧ Host.Core.run Sys2Proof.core 3 (u.withDb []).emit = .next t ∧
    Host.Core.run Sys2Proof.core 4 s = .next t ∧ FaultedWith s t i.rd pc p rest

/-! ### The sequential model of R324 -/

/-- What an instruction computes from the logical registers `x` at width `xlen` (R220, R324). -/
def sequentialResult (xlen : Nat) (x : Vector Nat Config.nlog) (i : Instr) : AluResult :=
  alu xlen i.op x[i.rs1.val] (match i.srcB with
    | .reg r => x[r.val]
    | .imm v => v)

/-- The logical registers after one instruction, executed alone (R324). -/
def sequentialStep (xlen : Nat) (x : Vector Nat Config.nlog) (i : Instr) : Vector Nat Config.nlog :=
  x.set i.rd.val (sequentialResult xlen x i).value

/-- The logical registers after a program, one instruction at a time in index order (R324). -/
def sequentialRun (xlen : Nat) (x : Vector Nat Config.nlog) : List Instr → Vector Nat Config.nlog
  | [] => x
  | i :: rest => sequentialRun xlen (sequentialStep xlen x i) rest

/-- No instruction of the program faults in the sequential model (R270, R324: no DIVU or REMU has a zero divisor). -/
def sequentialClean (xlen : Nat) (x : Vector Nat Config.nlog) : List Instr → Bool
  | [] => true
  | i :: rest => !(sequentialResult xlen x i).fault && sequentialClean xlen (sequentialStep xlen x i) rest

/-- The initial values of the logical registers: `PRF_INIT[0]` to `PRF_INIT[31]` (R315). -/
def initialLogical (inp : LaunchInput) : Vector Nat Config.nlog := Vector.ofFn fun r => inp.prfInit[r.val]

end Sys2Proof.Machine
end

