-- ==== Sys2Proof/Certificates/Slice0/Obligations.lean ====
section
/-! DEFINITION. The statements for the provers. Each docstring names the rules of spec/ the statement formalises; OBLIGATIONS.json lists them. -/

open Sys2Proof Sys2Proof.Machine

/-! ### Encoding -/

/-- R92, R93, R96, R105: the words of R105, and one of each other family from `95_test_vectors.md` section 2.1 and 3, decode to the instructions they stand for at the
default width. That `IMM` stands in the bits above `CW`, as in the ADDI word, is the model's reading (log 11). -/
def Obligations.WrittenOutWordsDecode : Prop :=
  decodeTableWord 32 0x00008230 = some (.add 3 1 2) ∧ decodeTableWord 96 0x500000648 = some (.addi 4 3 5) ∧
  decodeTableWord 32 0x00000223 = some (.divu 2 1 0) ∧ decodeTableWord 32 0x00008250 = some (.add 5 1 2) ∧
  decodeTableWord 32 0x00004A60 = some (.add 6 5 1) ∧ decodeTableWord 32 0x00008652 = some (.mulu 5 3 2) ∧
  decodeTableWord 32 0x00008244 = some (.remu 4 1 2) ∧ decodeTableWord 32 0x00004C71 = some (.sub 7 6 1) ∧
  decodeTableWord 32 0x00000005 = none ∧ decodeTableWord 32 0x00004008 = none ∧ decodeTableWord 32 0x00080000 = none

/-- R92, R93, R95, R96: at every width, for every instruction that is well formed at it, decoding its packed record gives it back, and so does decoding its bytes (R73; the order of
the two words is log 11's) with anything after them. -/
def Obligations.DecodeOfEncodeIsTheInstruction : Prop :=
  ∀ (xlen : Nat) (i : Instr) (rest : List Byte), i.wellFormed xlen = true →
    decodeDIR xlen (encode i) = .ok i ∧ decodeBytes xlen (encodeBytes xlen i ++ rest) = .ok (i, rest)

/-- R92, R97 (and D19: one encoding per instruction): a record that decodes is the encoding of what it decodes to, which is well formed. -/
def Obligations.EncodeOfDecodeIsTheRecord : Prop :=
  ∀ (xlen : Nat) (d : PackedDIR) (i : Instr), decodeDIR xlen d = .ok i → encode i = d ∧ i.wellFormed xlen = true

/-- R97: a record decodes exactly when its `IMM` has the width of R92 and it passes the four checks, and the fetch of one that does not is a fatal decode error (R100; as a fault,
log 9). That a record with a wider `IMM`, which no launch accepts, does not decode is the model's choice (log 1). -/
def Obligations.OnlyCanonicalRecordsDecode : Prop :=
  ∀ (xlen : Nat) (d : PackedDIR),
    ((∃ i, decodeDIR xlen d = .ok i) ↔
      (d.imm < 2 ^ xlen ∧ d.cw.toNat % 8 ≤ 4 ∧ d.cw.toNat / 2 ^ 19 = 0 ∧ (d.cw.toNat / 8 % 2 = 1 → d.cw.toNat / 2 ^ 14 % 32 = 0) ∧
        (d.cw.toNat / 8 % 2 = 0 → d.imm = 0))) ∧
    ((¬ ∃ i, decodeDIR xlen d = .ok i) → ∀ s : State, s.params.xlen = xlen → s.db = [] → s.prog[s.pc]? = some (.packed d) →
      ∃ why, fetchDecode s = .fault (.decodeError s.pc why))

/-- R96: a record that decodes matches, under its mask, the row of the opcode map of its own form and no other row. -/
def Obligations.DecodedRecordMatchesItsRowOnly : Prop :=
  ∀ (xlen : Nat) (d : PackedDIR) (i : Instr), decodeDIR xlen d = .ok i →
    ∀ r ∈ opcodeMap, r.spells d.cw ↔ r.mnemonic = i.mnemonic

/-- R101 to R103: the register forms' texts, with any registers, decode to their instructions. -/
def Obligations.RegisterTextsDecode : Prop :=
  ∀ (xlen : Nat) (rd rs1 rs2 : LReg),
    let decoded := fun m => decodeText xlen (instructionText m (registerText rd) (registerText rs1) (registerText rs2))
    decoded ['a', 'd', 'd'] = .ok (.add rd rs1 rs2) ∧ decoded ['s', 'u', 'b'] = .ok (.sub rd rs1 rs2) ∧
    decoded ['m', 'u', 'l', 'u'] = .ok (.mulu rd rs1 rs2) ∧ decoded ['d', 'i', 'v', 'u'] = .ok (.divu rd rs1 rs2) ∧
    decoded ['r', 'e', 'm', 'u'] = .ok (.remu rd rs1 rs2)

/-- R95, R102, R103: at every width, `addi` with any registers and any decimal literal decodes to ADDI with the literal's word, positive or negative, and a literal outside
the range is refused. -/
def Obligations.AddiTextsDecode : Prop :=
  ∀ (xlen : Nat) (rd rs1 : LReg) (digits : List Char) (n : Nat), parseDigits digits = some n →
    let decoded := fun c => decodeText xlen (instructionText ['a', 'd', 'd', 'i'] (registerText rd) (registerText rs1) c)
    (n < 2 ^ xlen → decoded digits = .ok (.addi rd rs1 n)) ∧
    (2 ^ xlen ≤ n → decoded digits = .error .badImmediate) ∧
    (n ≤ 2 ^ (xlen - 1) → decoded ('-' :: digits) = .ok (.addi rd rs1 ((2 ^ xlen - n) % 2 ^ xlen))) ∧
    (2 ^ (xlen - 1) < n → decoded ('-' :: digits) = .error .badImmediate)

/-! ### Launch and reset -/

/-- R310 (R52): what reset leaves, for every launch that is accepted: at most 65536 instructions, widths of R12, and values that fit them (D2, D3; log 1). -/
def Obligations.LaunchLeavesTheResetValues : Prop :=
  ∀ inp : LaunchInput, inp.accepted →
    ∃ t, launch inp = .next t ∧ t.pc = 0 ∧ t.db = [] ∧ (∀ r : LReg, (t.mapOf r).val = r.val) ∧ t.prf = inp.prfInit ∧
      (∀ p, t.isBusy p = false) ∧ t.fl.map Fin.val = List.range' 32 32 ∧ t.al = [] ∧ t.iq = [] ∧ t.execLatch = [] ∧
      t.exception = false ∧ t.exceptionPC = 0 ∧ t.mode = .run

/-- R316: a launch with more than 65536 instructions is refused. -/
def Obligations.LongLaunchIsRefused : Prop :=
  ∀ inp : LaunchInput, 65536 < inp.prog.length → launch inp = .refused .programTooLong

/-- R320 to R323, R326 and the widths of R13 hold of the state after every launch the machine accepts. -/
def Obligations.LaunchedStateHasTheInvariant : Prop :=
  ∀ inp : LaunchInput, inp.accepted → (State.launched inp).Inv

/-! ### One instruction -/

/-- R161, R162, R164, R165, R166, R221, R223, R225, R227, R229: each register form answers a next state with its dispatch, and everything else is as it was. The PC of the records is `presentedPC`: the first buffer entry's, which
the step makes this instruction's own (`StepRunsTheDecodedInstruction`), and with an empty buffer, where no step has it, the PC register: the model's choice (log 7). -/
def Obligations.RegisterFormsDispatch : Prop :=
  ∀ (rd rs1 rs2 : LReg) (s : State) (p : PReg) (rest : List PReg), s.fl = p :: rest →
    (∃ t, exec (.add rd rs1 rs2) s = .next t ∧ DispatchEffect s t .add rd rs1 (.reg rs2) p rest) ∧
    (∃ t, exec (.sub rd rs1 rs2) s = .next t ∧ DispatchEffect s t .sub rd rs1 (.reg rs2) p rest) ∧
    (∃ t, exec (.mulu rd rs1 rs2) s = .next t ∧ DispatchEffect s t .mulu rd rs1 (.reg rs2) p rest) ∧
    (∃ t, exec (.divu rd rs1 rs2) s = .next t ∧ DispatchEffect s t .divu rd rs1 (.reg rs2) p rest) ∧
    (∃ t, exec (.remu rd rs1 rs2) s = .next t ∧ DispatchEffect s t .remu rd rs1 (.reg rs2) p rest)

/-- R95, R161, R162, R164, R165, R166, R222, R224, R226, R228, R230: each immediate form answers a next state with its dispatch, and everything else is as it was. The PC of the records is `presentedPC`: the first buffer entry's, which
the step makes this instruction's own (`StepRunsTheDecodedInstruction`), and with an empty buffer, where no step has it, the PC register: the model's choice (log 7). -/
def Obligations.ImmediateFormsDispatch : Prop :=
  ∀ (rd rs1 : LReg) (v : Nat) (s : State) (p : PReg) (rest : List PReg), s.fl = p :: rest →
    (∃ t, exec (.addi rd rs1 v) s = .next t ∧ DispatchEffect s t .add rd rs1 (.imm v) p rest) ∧
    (∃ t, exec (.subImm rd rs1 v) s = .next t ∧ DispatchEffect s t .sub rd rs1 (.imm v) p rest) ∧
    (∃ t, exec (.muluImm rd rs1 v) s = .next t ∧ DispatchEffect s t .mulu rd rs1 (.imm v) p rest) ∧
    (∃ t, exec (.divuImm rd rs1 v) s = .next t ∧ DispatchEffect s t .divu rd rs1 (.imm v) p rest) ∧
    (∃ t, exec (.remuImm rd rs1 v) s = .next t ∧ DispatchEffect s t .remu rd rs1 (.imm v) p rest)

/-- R163: with an empty Free List every instruction stalls, and a stalled one writes nothing. -/
def Obligations.EmptyFreeListStallsEveryForm : Prop :=
  ∀ (i : Instr) (s : State), s.fl = [] → exec i s = .next s

/-- R221, R222: ADD and ADDI retire the sum modulo 2^XLEN, alone in the pipeline in four cycles. -/
def Obligations.AddRetiresTheWrappedSum : Prop :=
  ∀ (s : State) (pc : Nat) (p : PReg) (rest : List PReg) (rd rs1 rs2 : LReg) (v : Nat),
    (s.onlyDecoded [⟨pc, .add rd rs1 rs2⟩] [p] rest → RetiresAs (.add rd rs1 rs2) s p rest fun x =>
      x = (s.logical rs1 + s.logical rs2) % 2 ^ s.params.xlen) ∧
    (s.onlyDecoded [⟨pc, .addi rd rs1 v⟩] [p] rest → RetiresAs (.addi rd rs1 v) s p rest fun x =>
      x = (s.logical rs1 + v) % 2 ^ s.params.xlen)

/-- R223, R224: SUB and SUB_IMM retire the difference modulo 2^XLEN. -/
def Obligations.SubRetiresTheWrappedDifference : Prop :=
  ∀ (s : State) (pc : Nat) (p : PReg) (rest : List PReg) (rd rs1 rs2 : LReg) (v : Nat),
    (s.onlyDecoded [⟨pc, .sub rd rs1 rs2⟩] [p] rest → RetiresAs (.sub rd rs1 rs2) s p rest fun x =>
      (x : Int) = ((s.logical rs1 : Int) - s.logical rs2) % 2 ^ s.params.xlen) ∧
    (s.onlyDecoded [⟨pc, .subImm rd rs1 v⟩] [p] rest → RetiresAs (.subImm rd rs1 v) s p rest fun x =>
      (x : Int) = ((s.logical rs1 : Int) - v) % 2 ^ s.params.xlen)

/-- R225, R226: MULU and MULU_IMM retire the low word of the unsigned product. -/
def Obligations.MuluRetiresTheLowProduct : Prop :=
  ∀ (s : State) (pc : Nat) (p : PReg) (rest : List PReg) (rd rs1 rs2 : LReg) (v : Nat),
    (s.onlyDecoded [⟨pc, .mulu rd rs1 rs2⟩] [p] rest → RetiresAs (.mulu rd rs1 rs2) s p rest fun x =>
      x = (s.logical rs1 * s.logical rs2) % 2 ^ s.params.xlen) ∧
    (s.onlyDecoded [⟨pc, .muluImm rd rs1 v⟩] [p] rest → RetiresAs (.muluImm rd rs1 v) s p rest fun x =>
      x = (s.logical rs1 * v) % 2 ^ s.params.xlen)

/-- R227, R228: with a divisor that is not 0, DIVU and DIVU_IMM retire the floor of the quotient. -/
def Obligations.DivuRetiresTheQuotient : Prop :=
  ∀ (s : State) (pc : Nat) (p : PReg) (rest : List PReg) (rd rs1 rs2 : LReg) (v : Nat),
    (s.onlyDecoded [⟨pc, .divu rd rs1 rs2⟩] [p] rest → s.logical rs2 ≠ 0 → RetiresAs (.divu rd rs1 rs2) s p rest fun x =>
      x = s.logical rs1 / s.logical rs2) ∧
    (s.onlyDecoded [⟨pc, .divuImm rd rs1 v⟩] [p] rest → v ≠ 0 → RetiresAs (.divuImm rd rs1 v) s p rest fun x =>
      x = s.logical rs1 / v)

/-- R229, R230: with a divisor that is not 0, REMU and REMU_IMM retire the remainder. -/
def Obligations.RemuRetiresTheRemainder : Prop :=
  ∀ (s : State) (pc : Nat) (p : PReg) (rest : List PReg) (rd rs1 rs2 : LReg) (v : Nat),
    (s.onlyDecoded [⟨pc, .remu rd rs1 rs2⟩] [p] rest → s.logical rs2 ≠ 0 → RetiresAs (.remu rd rs1 rs2) s p rest fun x =>
      x = s.logical rs1 % s.logical rs2) ∧
    (s.onlyDecoded [⟨pc, .remuImm rd rs1 v⟩] [p] rest → v ≠ 0 → RetiresAs (.remuImm rd rs1 v) s p rest fun x =>
      x = s.logical rs1 % v)

/-- R227 to R230, R253, R270, R275, R277: with a zero divisor each of the four division forms writes 0, leaves its register busy and its entry faulting, and the fault is
taken when the entry is at the head, under either `FAULT_CYCLE_COMPLETES`. -/
def Obligations.ZeroDivisorTakesTheFault : Prop :=
  ∀ (s : State) (pc : Nat) (p : PReg) (rest : List PReg) (rd rs1 rs2 : LReg), programFits s.prog →
    (s.onlyDecoded [⟨pc, .divu rd rs1 rs2⟩] [p] rest → s.logical rs2 = 0 → FaultsAlone (.divu rd rs1 rs2) s pc p rest) ∧
    (s.onlyDecoded [⟨pc, .divuImm rd rs1 0⟩] [p] rest → FaultsAlone (.divuImm rd rs1 0) s pc p rest) ∧
    (s.onlyDecoded [⟨pc, .remu rd rs1 rs2⟩] [p] rest → s.logical rs2 = 0 → FaultsAlone (.remu rd rs1 rs2) s pc p rest) ∧
    (s.onlyDecoded [⟨pc, .remuImm rd rs1 0⟩] [p] rest → FaultsAlone (.remuImm rd rs1 0) s pc p rest)

/-- R167, R184, R207, R209: of two instructions in one batch, the second with the first's destination as its source 1, the second is dispatched waiting on the first's new register, is
woken and issued in the cycle the first executes, and retires the result of the first's value, one cycle after it. Neither faults. -/
def Obligations.ForwardedValueReachesTheConsumer : Prop :=
  ∀ (s : State) (pc : Nat) (i j : Instr) (p q : PReg) (rest : List PReg),
    s.onlyDecoded [⟨pc, i⟩, ⟨pc + 1, j⟩] [p, q] rest → j.rs1 = i.rd →
    let r1 := alu s.params.xlen i.op (s.logical i.rs1) (s.valueB i.srcB)
    let r2 := alu s.params.xlen j.op r1.value (match j.srcB with
      | .reg r => if r = i.rd then r1.value else s.logical r
      | .imm v => v)
    r1.fault = false → r2.fault = false →
    (∃ d, Host.Core.run Sys2Proof.core 1 s = .next d ∧
      ∃ e1 e2, d.iq = [e1, e2] ∧ e2.opAReady = false ∧ e2.opATag = p) ∧
    (∃ d, Host.Core.run Sys2Proof.core 3 s = .next d ∧ d.prfAt p = r1.value ∧ d.iq = [] ∧
      ∃ e2, d.execLatch = [e2] ∧ e2.pc = pc + 1 ∧ e2.opAValue = r1.value) ∧
    (∃ t, Host.Core.run Sys2Proof.core 5 s = .next t ∧ t.mode = .run ∧ t.al = [] ∧ t.iq = [] ∧ t.execLatch = [] ∧
      t.logical j.rd = r2.value ∧ (i.rd ≠ j.rd → t.logical i.rd = r1.value) ∧
      (∀ r, r ≠ i.rd → r ≠ j.rd → t.logical r = s.logical r) ∧ t.fl.length = rest.length + 2)

/-- R231 (and R220 to R230): what each operation computes, at every width: ADD, SUB and MULU wrap and never fault; DIVU and REMU are floor division and remainder, and on a zero divisor give 0
and fault; from a word every result is a word. -/
def Obligations.OperationsComputeOnUnsignedWords : Prop :=
  ∀ (w a b : Nat),
    ((alu w .add a b).value = (a + b) % 2 ^ w ∧ (alu w .add a b).fault = false) ∧
    (((alu w .sub a b).value : Int) = ((a : Int) - b) % 2 ^ w ∧ (alu w .sub a b).fault = false) ∧
    ((alu w .mulu a b).value = a * b % 2 ^ w ∧ (alu w .mulu a b).fault = false) ∧
    (b ≠ 0 → (alu w .divu a b).value = a / b ∧ (alu w .divu a b).fault = false ∧
      (alu w .remu a b).value = a % b ∧ (alu w .remu a b).fault = false ∧
      a = b * (alu w .divu a b).value + (alu w .remu a b).value ∧
      (alu w .remu a b).value < b ∧ (alu w .divu a b).value ≤ a ∧ (alu w .remu a b).value ≤ a) ∧
    (b = 0 → alu w .divu a b = ⟨0, true⟩ ∧ alu w .remu a b = ⟨0, true⟩) ∧
    (a < 2 ^ w → ∀ op, (alu w op a b).value < 2 ^ w)

/-! ### The step -/

/-- R121, R160: with one instruction in the decode buffer, a RUN cycle without a fault is that instruction's meaning, after Commit, Execute and Issue, and before the buffer's emptying (or the
stalled instruction's keeping), Fetch/Decode and the snapshot. -/
def Obligations.StepRunsTheDecodedInstruction : Prop :=
  ∀ (s e : State) (pc : Nat) (i : Instr),
    s.mode = .run → s.db = [⟨pc, i⟩] → (commit s).2 = false → execute (commit s).1 = .next e →
    step s = andThen (exec i (issue e)) fun d =>
      andThen (fetchDecode (d.withDb (d.stalledBuffer (if (issue e).fl.isEmpty then [⟨pc, i⟩] else [])))) fun u => .next u.emit

/-- R121, R160, R170: in every RUN cycle that runs its later stages, each instruction of the decode buffer in order has its meaning run, on the state the one before left. -/
def Obligations.CycleRunsEveryDecodedInstruction : Prop :=
  ∀ (s e : State), s.mode = .run → s.drained = false → (commit s).2 = false → execute (commit s).1 = .next e →
    ∃ d, s.db.foldl (fun o x => andThen o fun u => andThen (exec x.instr (u.withDb [x])) fun v => .next (v.withDb [])) (.next ((issue e).withDb [])) = .next d ∧
      step s = andThen (fetchDecode (d.withDb (s.stalledBuffer (s.db.drop (issue e).fl.length)))) fun u => .next u.emit

/-- R120, R128: in `DONE` and `ERROR` there is no step. -/
def Obligations.FinishedRunHasNoStep : Prop :=
  ∀ s : State, s.mode = .done ∨ s.mode = .error → step s = .refused .runOver

/-- R124: the RUN arm ends the run, and emits no snapshot, when nothing is left to fetch, dispatch or retire. -/
def Obligations.DrainedRunEnds : Prop :=
  ∀ s : State, s.mode = .run → s.prog.length ≤ s.pc → s.db = [] → s.al = [] → step s = .next { s with mode := .done }

/-- R47, R121, R280: the transitions of the mode. -/
def Obligations.ModeFollowsTheRun : Prop :=
  ∀ s t : State, step s = .next t →
    (s.mode = .run ∧ t.mode = if s.drained then .done else if (commit s).2 then .recover else .run) ∨
    (s.mode = .recover ∧ t.mode = if s.al.length ≤ 4 then .recoverFinal else .recover) ∨
    (s.mode = .recoverFinal ∧ t.mode = .recoverClear) ∨ (s.mode = .recoverClear ∧ t.mode = .done)

/-- R80, R130, R313: no step changes the program or the parameters. -/
def Obligations.LaunchInputsStayFixed : Prop :=
  ∀ s t : State, step s = .next t → t.prog = s.prog ∧ t.params = s.params

/-- R127: a step hands out one snapshot, of the state it leaves, unless it ends the run from RUN, when it hands out none; and what was handed out is never read. -/
def Obligations.StepHandsOutOneSnapshot : Prop :=
  ∀ (s t : State) (l : List Snapshot), step s = .next t →
    ∃ out, out = (if s.mode = .run ∧ s.drained = true then [] else [t.snapshot]) ∧ t.trace = s.trace ++ out ∧
      step (s.withTrace l) = .next (t.withTrace (l ++ out))

/-- R45, R46, R253, R287: the fault indicator is set by Commit alone, at a faulting head with everything before it retired, together with `ExceptionPC` and the redirect; it is cleared by the last recovery step alone; and no other
step changes either fault register. -/
def Obligations.FaultRegistersHaveTwoWriters : Prop :=
  ∀ s t : State, programFits s.prog → step s = .next t →
    (s.mode = .run ∧ t.mode = .recover ∧ t.exception = true ∧ t.pc = 65536 ∧
      ∃ pre h post, s.al = pre ++ h :: post ∧ (∀ a ∈ pre, a.done = true ∧ a.exc = false) ∧ h.exc = true ∧ t.exceptionPC = h.pc) ∨
    (s.mode = .recoverClear ∧ t.exception = false ∧ t.exceptionPC = s.exceptionPC) ∨
    (t.exception = s.exception ∧ t.exceptionPC = s.exceptionPC)

/-- R34, R204: a register value changes only in a RUN step, and only where an entry of the latch has it as its destination. -/
def Obligations.RegisterFileWrittenByExecuteOnly : Prop :=
  ∀ (s t : State) (p : PReg), step s = .next t → (s.mode = .run → ∀ e ∈ s.execLatch, e.destReg ≠ p) → t.prfAt p = s.prfAt p

/-- R33: a mapping changes only where a decoded instruction has that destination in RUN, or under the corrected recovery where an Active List entry has it. -/
def Obligations.MappingWrittenByRenamingOnly : Prop :=
  ∀ (s t : State) (r : LReg), step s = .next t → (s.mode = .run → ∀ e ∈ s.db, e.instr.rd ≠ r) →
    (s.mode = .recover → s.params.recoveryVariant = .corrected → ∀ a ∈ s.al, a.logDest ≠ r) → t.mapOf r = s.mapOf r

/-- R41, R142, R145: `PC` moves forward by the number fetched, at most four, or is redirected to 65536 when the fault is taken; in every other mode it stays. -/
def Obligations.PcAdvancesOrTakesTheVector : Prop :=
  ∀ s t : State, programFits s.prog → step s = .next t →
    (∃ k, k ≤ 4 ∧ t.pc = s.pc + k ∧ (k ≠ 0 → s.mode = .run ∧ t.db.length = k ∧ t.pc ≤ s.prog.length)) ∨
    (s.mode = .run ∧ (commit s).2 = true ∧ t.mode = .recover ∧ t.pc = 65536)

/-- R123, R180, R325: in a RUN cycle at most four instructions execute, issue, dispatch and are fetched, and what issues has both operands ready. -/
def Obligations.NoCycleMovesMoreThanFour : Prop :=
  ∀ s e d u : State, s.mode = .run → s.pipelineOrdered → execute (commit s).1 = .next e → dispatch (issue e) = .next d → fetchDecode d = .next u →
    s.execLatch.length ≤ 4 ∧ (issue e).execLatch.length ≤ 4 ∧ (∀ x ∈ (issue e).execLatch, x.opAReady = true ∧ x.opBReady = true) ∧
    d.al.length ≤ e.al.length + 4 ∧ d.iq.length ≤ (issue e).iq.length + 4 ∧ u.pc ≤ d.pc + 4 ∧ u.db.length ≤ 4

/-! ### Fetch/Decode -/

/-- R141, R142, R143: an enabled fetch reads the next instructions, four at most, none past the end, each with its index as its PC, and advances `PC` by their number; a disabled one does nothing. -/
def Obligations.FetchReadsUpToFour : Prop :=
  ∀ (s : State) (k : Nat), k = (if s.pc < s.prog.length then min 4 (s.prog.length - s.pc) else 0) →
    (s.db ≠ [] → fetchDecode s = .next s) ∧
    (s.db = [] → (∀ j < k, ∃ item i, s.prog[s.pc + j]? = some item ∧ decodeItem s.params.xlen item = .ok i) →
      ∃ batch, fetchDecode s = .next { s with db := batch, pc := s.pc + k } ∧ batch.length = k ∧
        ∀ j e, batch[j]? = some e → e.pc = s.pc + j ∧
          ∃ item, s.prog[s.pc + j]? = some item ∧ decodeItem s.params.xlen item = .ok e.instr)

/-- R144: of the indices a fetch reads, the first that does not decode ends the run with the fatal decode error at it; an index the fetch does not reach is not decoded. -/
def Obligations.FetchEndsAtTheFirstUndecodable : Prop :=
  ∀ (s : State) (j : Nat) (item : ProgItem) (why : DecodeError), s.db = [] → j < 4 →
    (∀ m < j, ∃ x i, s.prog[s.pc + m]? = some x ∧ decodeItem s.params.xlen x = .ok i) →
    s.prog[s.pc + j]? = some item → decodeItem s.params.xlen item = .error why →
    fetchDecode s = .fault (.decodeError (s.pc + j) why)

/-- R132: the fetch block's outputs are the stage: its fatal error is the fault, its next PC and its slots, packed, are what the stage leaves. -/
def Obligations.FetchBlockIsTheStage : Prop :=
  ∀ s : State, let o := fetchBlock s.fetchIn
    (o.fatalDecodeError = true ↔ ∃ i why, fetchDecode s = .fault (.decodeError i why)) ∧
    (∀ t, fetchDecode s = .next t → t.pc = o.pcNext ∧ (o.fetchEn = false → t = s) ∧
      (o.fetchEn = true → o.slots.toList.filterMap id = t.db.map DBEntry.slot ∧ t.db.length = o.k))

/-! ### Rename/Dispatch -/

/-- R163, R165, R166, R168: a batch is dispatched in program order as far as the Free List reaches; each dispatched instruction takes the next free register and gets one record in each list with its PC; the rest stall, kept with `Retain` and lost with `Drop`. -/
def Obligations.DispatchTakesAPrefixOfTheBatch : Prop :=
  ∀ s : State, let m := min s.db.length s.fl.length
    ∃ t newAl newIq, dispatch s = .next t ∧ t.fl = s.fl.drop m ∧ t.al = s.al ++ newAl ∧ t.iq = s.iq ++ newIq ∧
      newAl.map ALEntry.pc = (s.db.take m).map DBEntry.pc ∧ newIq.map IQEntry.pc = (s.db.take m).map DBEntry.pc ∧
      newAl.map ALEntry.logDest = (s.db.take m).map (fun e => e.instr.rd) ∧ newIq.map IQEntry.opCode = (s.db.take m).map (fun e => e.instr.op) ∧
      newIq.map IQEntry.destReg = s.fl.take m ∧ (∀ a ∈ newAl, a.done = false ∧ a.exc = false) ∧
      (∀ p ∈ s.fl.take m, t.isBusy p = true) ∧ (∀ p, p ∉ s.fl.take m → t.isBusy p = s.isBusy p) ∧
      (∀ r, (∀ e ∈ s.db.take m, e.instr.rd ≠ r) → t.mapOf r = s.mapOf r) ∧
      (s.params.stallMode = .retain → t.db = s.db.drop m) ∧ (s.params.stallMode = .drop → t.db = []) ∧
      t.prf = s.prf ∧ t.pc = s.pc ∧ t.execLatch = s.execLatch ∧ t.mode = s.mode ∧ t.exception = s.exception ∧ t.exceptionPC = s.exceptionPC ∧
      t.prog = s.prog ∧ t.params = s.params ∧ t.trace = s.trace

/-- R133, R167: for a decode buffer of R43, four entries at most, the rename block, its four slots read at once through eight Busy and eight PRF ports with the RAT-and-Busy bypass between
them, drives what dispatching one at a time does. The signals as functions are the model's form (logs 15 and 20). -/
def Obligations.RenameBlockIsTheStage : Prop :=
  ∀ s : State, s.db.length ≤ 4 → dispatch s = .next (s.driveRename (renameBlock s.renameIn))

/-! ### Issue -/

/-- R181, R182, R183: Issue moves the first four ready entries to the latch, in queue order, and keeps the others in theirs; nothing else changes. -/
def Obligations.IssueMovesTheFirstFourReady : Prop :=
  ∀ s : State, let ready := fun e : IQEntry => e.opAReady && e.opBReady
    ∃ q, issue s = { s with iq := q, execLatch := (s.iq.filter ready).take 4 } ∧ q.Sublist s.iq ∧
      q.filter ready = (s.iq.filter ready).drop 4 ∧ q.filter (fun e => !ready e) = s.iq.filter (fun e => !ready e)

/-- R134: the issue block's removal mask and selected entries drive what the scan does. -/
def Obligations.IssueBlockIsTheStage : Prop :=
  ∀ s : State, issue s = s.driveIssue (issueBlock s.iq)

/-! ### Execute -/

/-- R201 to R205: one latch entry marks its Active List entry, writes its result, clears its Busy bit and wakes the operands that wait on it unless it faults, and changes nothing else. Of several Active List entries with its PC, which no run has, the oldest is marked:
the model's choice (log 13). -/
def Obligations.ExecutedEntryMarksWritesAndWakes : Prop :=
  ∀ (s : State) (e : IQEntry) (pre post : List ALEntry) (a : ALEntry), s.al = pre ++ a :: post → a.pc = e.pc → (∀ b ∈ pre, b.pc ≠ e.pc) →
    let r := alu s.params.xlen e.opCode e.opAValue e.opBValue
    ∃ t, executeOne e s = .next t ∧ t.al = pre ++ ⟨true, r.fault, a.logDest, a.oldDest, a.pc⟩ :: post ∧
      t.prfAt e.destReg = r.value ∧ (∀ p, p ≠ e.destReg → t.prfAt p = s.prfAt p) ∧
      t.isBusy e.destReg = (if r.fault then s.isBusy e.destReg else false) ∧ (∀ p, p ≠ e.destReg → t.isBusy p = s.isBusy p) ∧
      t.iq.length = s.iq.length ∧
      (∀ (k : Nat) (q x : IQEntry), s.iq[k]? = some q → t.iq[k]? = some x →
        x.destReg = q.destReg ∧ x.opCode = q.opCode ∧ x.pc = q.pc ∧
        (if r.fault = false ∧ q.opAReady = false ∧ q.opATag = e.destReg then x.opAReady = true ∧ x.opAValue = r.value ∧ x.opATag = 0
          else x.opAReady = q.opAReady ∧ x.opAValue = q.opAValue ∧ x.opATag = q.opATag) ∧
        (if r.fault = false ∧ q.opBReady = false ∧ q.opBTag = e.destReg then x.opBReady = true ∧ x.opBValue = r.value ∧ x.opBTag = 0
          else x.opBReady = q.opBReady ∧ x.opBValue = q.opBValue ∧ x.opBTag = q.opBTag)) ∧
      t.rat = s.rat ∧ t.fl = s.fl ∧ t.db = s.db ∧ t.pc = s.pc ∧ t.execLatch = s.execLatch ∧ t.exception = s.exception ∧
      t.exceptionPC = s.exceptionPC ∧ t.mode = s.mode ∧ t.prog = s.prog ∧ t.params = s.params ∧ t.trace = s.trace

/-- R200, R206: the order of the latch does not matter when its entries have different PCs and different destinations. -/
def Obligations.LatchOrderDoesNotMatter : Prop :=
  ∀ (s : State) (latch : List IQEntry), s.execLatch.Perm latch → (s.execLatch.map IQEntry.pc).Nodup → (s.execLatch.map IQEntry.destReg).Nodup →
    execute (s.withExecLatch latch) = execute s

/-- R200, R202, R203, R204: executing a whole latch leaves every structure but the Active List's flags, the Busy bits and values of its destinations and the queue's operands as it was. -/
def Obligations.ExecuteKeepsEverythingElse : Prop :=
  ∀ s t : State, execute s = .next t →
    t.execLatch = [] ∧ t.rat = s.rat ∧ t.fl = s.fl ∧ t.db = s.db ∧ t.pc = s.pc ∧ t.exception = s.exception ∧ t.exceptionPC = s.exceptionPC ∧
    t.mode = s.mode ∧ t.prog = s.prog ∧ t.params = s.params ∧ t.trace = s.trace ∧
    (∀ p, (∀ e ∈ s.execLatch, e.destReg ≠ p) → t.prfAt p = s.prfAt p ∧ t.isBusy p = s.isBusy p) ∧
    t.al.map (fun a => (a.logDest, a.oldDest, a.pc)) = s.al.map (fun a => (a.logDest, a.oldDest, a.pc)) ∧
    t.iq.map (fun q => (q.destReg, q.opCode, q.pc)) = s.iq.map (fun q => (q.destReg, q.opCode, q.pc))

/-- R135: the result buses, each driving its write port, Busy clear, Active List mark and broadcast, do what executing the latch does, when the Active List's PCs differ and each latch entry has one there. -/
def Obligations.ExecuteBlockIsTheStage : Prop :=
  ∀ s : State, (s.al.map ALEntry.pc).Nodup → (∀ e ∈ s.execLatch, ∃ a ∈ s.al, a.pc = e.pc) →
    execute s = .next (s.driveExecute (executeBlock s.params.xlen s.execLatch))

/-! ### Commit -/

/-- R251, R252, R254, R255: Commit retires the longest run of done entries without a fault at the head, however long, and pushes their old destinations in that order; an incomplete entry stops it. -/
def Obligations.CommitRetiresTheDonePrefix : Prop :=
  ∀ (s : State) (pre post : List ALEntry), s.al = pre ++ post → (∀ a ∈ pre, a.done = true ∧ a.exc = false) →
    (post = [] ∨ ∃ h rest, post = h :: rest ∧ h.exc = false ∧ h.done = false) →
    commit s = ({ s with al := post, fl := s.fl ++ pre.map ALEntry.oldDest }, false)

/-- R253, R276: at a faulting head, behind entries that all retire, Commit saves its PC, redirects to 65536, sets the indicator, keeps the entry and everything younger, and stops. -/
def Obligations.CommitTakesTheFaultAtTheHead : Prop :=
  ∀ (s : State) (pre post : List ALEntry) (h : ALEntry), s.al = pre ++ h :: post → (∀ a ∈ pre, a.done = true ∧ a.exc = false) → h.exc = true →
    commit s = ({ s with al := h :: post, fl := s.fl ++ pre.map ALEntry.oldDest, exceptionPC := h.pc, pc := 65536, exception := true }, true)

/-- R136: the commit half's outputs drive what the commit loop does. -/
def Obligations.CommitBlockIsTheStage : Prop :=
  ∀ s : State, commit s = (s.driveCommit (commitBlock s.al), (commitBlock s.al).faultDetected)

/-- R277, R121: the fault cycle: by default it runs no further stage; with `FAULT_CYCLE_COMPLETES` the later stages run first; its snapshot is emitted and recovery is next. -/
def Obligations.FaultCycleEntersRecovery : Prop :=
  ∀ s : State, s.mode = .run → (commit s).2 = true →
    let c := (commit s).1
    (s.params.faultCycleCompletes = false → step s = .next { c with trace := c.trace ++ [c.snapshot], mode := .recover }) ∧
    (s.params.faultCycleCompletes = true →
      step s = andThen (execute c) fun e => andThen (dispatch (issue e)) fun d => andThen (fetchDecode d) fun u =>
        .next { u with trace := u.trace ++ [u.snapshot], mode := .recover })

/-! ### Recovery -/

/-- R281, R136: a RECOVER step empties the Issue Queue and drives the recovery half's outputs: up to four entries squashed from the tail, youngest first, in either variant. -/
def Obligations.RecoverBlockIsTheStage : Prop :=
  ∀ s : State, s.mode = .recover →
    let t := s.driveRecover (recoverBlock s.params.recoveryVariant s.rat s.al)
    step s = .next { t with trace := t.trace ++ [t.snapshot], mode := if t.al = [] then .recoverFinal else .recover }

/-- R286, R287: the RECOVER_FINAL step changes nothing but the mode and emits one snapshot, equal to the one the last RECOVER step emitted; the RECOVER_CLEAR step clears the
indicator, emits one snapshot and ends the run. -/
def Obligations.ClosingRecoveryStepsEmitAndClear : Prop :=
  ∀ s : State,
    (s.mode = .recoverFinal → step s = .next { s with trace := s.trace ++ [s.snapshot], mode := .recoverClear }) ∧
    (∀ t, s.mode = .recover → step s = .next t → t.mode = .recoverFinal →
      ∃ x, t.trace = s.trace ++ [x] ∧ step t = .next { t with trace := t.trace ++ [x], mode := .recoverClear }) ∧
    (s.mode = .recoverClear →
      step s = .next { s with exception := false, trace := s.trace ++ [({ s with exception := false } : State).snapshot], mode := .done })

/-- R280, R282, R283, R286 to R288: with `m` entries the observed recovery ends the run in ceil(m / 4) + 2 steps: the Active List and Issue Queue are empty, every old destination has been freed, youngest first,
and the RAT, Busy bits, values, `PC`, `ExceptionPC`, decode buffer and latch are as they were. -/
def Obligations.ObservedRecoveryEndsTheRun : Prop :=
  ∀ s : State, s.mode = .recover → s.params.recoveryVariant = .observed → s.al ≠ [] →
    ∃ t, Host.Core.run Sys2Proof.core ((s.al.length + 3) / 4 + 2) s = .next t ∧ t.mode = .done ∧ t.exception = false ∧ t.al = [] ∧ t.iq = [] ∧
      t.fl = s.fl ++ (s.al.reverse.map ALEntry.oldDest) ∧ t.rat = s.rat ∧ t.busy = s.busy ∧ t.prf = s.prf ∧ t.pc = s.pc ∧
      t.exceptionPC = s.exceptionPC ∧ t.db = s.db ∧ t.execLatch = s.execLatch ∧ t.trace.length = s.trace.length + ((s.al.length + 3) / 4 + 2)

/-- R285: the corrected recovery ends in as many steps with the RAT as it was before the squashed renamings, every squashed instruction's own register freed, youngest first, and no longer busy; when the registers were partitioned, the Free List then holds
every register the RAT does not map. -/
def Obligations.CorrectedRecoveryRestoresTheMap : Prop :=
  ∀ s : State, s.mode = .recover → s.params.recoveryVariant = .corrected → s.al ≠ [] →
    ∃ t, Host.Core.run Sys2Proof.core ((s.al.length + 3) / 4 + 2) s = .next t ∧ t.mode = .done ∧ t.exception = false ∧ t.al = [] ∧ t.iq = [] ∧
      t.fl = s.fl ++ (destinations s.al s.rat).reverse ∧
      (∀ r, t.mapOf r = match s.al.find? (fun a => a.logDest = r) with
        | some a => a.oldDest
        | none => s.mapOf r) ∧
      (∀ p, t.isBusy p = (s.isBusy p && !(destinations s.al s.rat).contains p)) ∧
      (s.registersPartition → ∀ p : PReg, p ∈ t.fl ↔ ∀ r, t.mapOf r ≠ p) ∧
      t.prf = s.prf ∧ t.pc = s.pc ∧ t.exceptionPC = s.exceptionPC ∧ t.db = s.db ∧ t.execLatch = s.execLatch

/-! ### Invariants -/

/-- R321, R284: every step, in every mode, setting and variant, keeps the registers partitioned. -/
def Obligations.EveryStepKeepsThePartition : Prop :=
  ∀ s t : State, s.registersPartition → step s = .next t → t.registersPartition

/-- R323, R41, R43, R44: every step keeps the pipeline in program order. -/
def Obligations.EveryStepKeepsProgramOrder : Prop :=
  ∀ s t : State, s.pipelineOrdered → step s = .next t → t.pipelineOrdered

/-- R320 to R323, R326, and R13's widths: every step keeps the whole invariant. -/
def Obligations.EveryStepKeepsTheInvariant : Prop :=
  ∀ s t : State, s.Inv → step s = .next t → t.Inv

/-- R11, R322: under the invariant neither queue exceeds 32 entries in RUN, and an empty Active List means an empty Issue Queue and latch. -/
def Obligations.QueuesStayWithinCapacity : Prop :=
  ∀ s : State, s.Inv → s.mode = .run → s.withinCapacity ∧ (s.al = [] → s.iq = [] ∧ s.execLatch = [])

/-- R202, R128: under the invariant the model's fault is never reached, and when every program location decodes every mode but the two ends has a next state. -/
def Obligations.InvariantStatesAlwaysStep : Prop :=
  ∀ s : State, s.Inv → step s ≠ .fault .alMiss ∧
    ((∀ item ∈ s.prog, ∃ i, decodeItem s.params.xlen item = .ok i) → s.mode ≠ .done → s.mode ≠ .error → ∃ t, step s = .next t)

/-- R320, R321, R323: in every run from every launch, at every cycle boundary in RUN: 32 registers are free or displaced; the RAT is injective; the Free List, the RAT and the old destinations partition the registers; the Active List's PCs strictly increase, and with `Retain`
are consecutive. -/
def Obligations.EveryRunKeepsTheBooks : Prop :=
  ∀ (inp : LaunchInput) (k : Nat) (t : State), inp.accepted → Host.Core.run Sys2Proof.core k (State.launched inp) = .next t → t.mode = .run →
    t.fl.length + t.al.length = 32 ∧ (∀ r q, t.mapOf r = t.mapOf q → r = q) ∧
    (t.fl ++ t.rat.toList ++ t.al.map ALEntry.oldDest).Nodup ∧ (∀ p : PReg, p ∈ t.fl ++ t.rat.toList ++ t.al.map ALEntry.oldDest) ∧
    (t.al.map ALEntry.pc).Pairwise (· < ·) ∧
    (inp.params.stallMode = .retain → (t.al.map ALEntry.pc).IsChain fun a b => b = a + 1)

/-- R120, R124, R128, R129, R280, R327: a run in which every program location decodes reaches `DONE`, whatever the values, the parameters and the faults: within five cycles for each instruction, the fault cycle and the ten
steps of the longest recovery. The bound is the model's own count (each cycle moves at least one instruction one stage on); the spec states none. -/
def Obligations.EveryDecodableRunEnds : Prop :=
  ∀ inp : LaunchInput, inp.accepted → (∀ item ∈ inp.prog, ∃ i, decodeItem inp.params.xlen item = .ok i) →
    ∃ k t, k ≤ 5 * inp.prog.length + 11 ∧ Host.Core.run Sys2Proof.core k (State.launched inp) = .next t ∧ t.mode = .done

/-- R324: with `Retain`, a program whose locations all decode and in which no division has a zero divisor in the sequential model, if its run reaches `DONE`, leaves every logical register with the value the sequential model gives it. -/
def Obligations.FinishedRunEqualsTheSequentialModel : Prop :=
  ∀ (inp : LaunchInput) (program : List Instr) (k : Nat) (t : State), inp.accepted → inp.params.stallMode = .retain →
    inp.prog.map (decodeItem inp.params.xlen) = program.map Except.ok → sequentialClean inp.params.xlen (initialLogical inp) program = true →
    Host.Core.run Sys2Proof.core k (State.launched inp) = .next t → t.mode = .done →
    ∀ r : LReg, t.logical r = (sequentialRun inp.params.xlen (initialLogical inp) program)[r.val]
end

