-- ==== Sys2Proof/Laws/Decode.lean ====
section
/-! SUPPORT. Truncation to a width (R13), and the fields of a control word the encoder writes (R92). -/

namespace Sys2Proof

/-- A truncated value is a word (R13). -/
theorem trunc_lt (n : Nat) (v : Int) : trunc n v < 2 ^ n := by
  have h1 : 0 ≤ v % (2 ^ n : Int) := Int.emod_nonneg _ (by positivity)
  have h2 : v % (2 ^ n : Int) < 2 ^ n := Int.emod_lt_of_pos _ (by positivity)
  have h3 : ((trunc n v : Nat) : Int) < ((2 ^ n : Nat) : Int) := by
    rw [trunc, Int.toNat_of_nonneg h1]; simpa using h2
  exact_mod_cast h3

/-- A truncated value as an integer: `v mod 2^N` (R13). -/
theorem trunc_cast (n : Nat) (v : Int) : ((trunc n v : Nat) : Int) = v % 2 ^ n := by
  rw [trunc, Int.toNat_of_nonneg (Int.emod_nonneg _ (by positivity))]

/-- Truncation of an unsigned number (R13). -/
@[simp] theorem trunc_natCast (n v : Nat) : trunc n (v : Int) = v % 2 ^ n := by
  have h := trunc_cast n (v : Int)
  exact_mod_cast h

/-- A word is not changed. -/
theorem trunc_of_lt (n v : Nat) (h : v < 2 ^ n) : trunc n (v : Int) = v := by
  rw [trunc_natCast, Nat.mod_eq_of_lt h]

/-- The decoder at a width: the width's check, then the fields (R92, R97). -/
theorem decodeDIR_eq_ok_iff (xlen : Nat) (d : PackedDIR) (i : Instr) :
    decodeDIR xlen d = .ok i ↔ d.imm < 2 ^ xlen ∧ decodeFields d = .ok i := by
  unfold decodeDIR
  by_cases h : d.imm < 2 ^ xlen <;> simp [PackedDIR.immFits, h]

/-- The bits of a control word, field by field (R92). -/
theorem controlWord_getLsbD (op : BitVec 3) (bimm : BitVec 1) (rd rs1 rs2 : BitVec 5) (k : Nat) :
    (controlWord op bimm rd rs1 rs2).getLsbD k =
      if k < 3 then op.getLsbD k else if k < 4 then bimm.getLsbD (k - 3) else if k < 9 then rd.getLsbD (k - 4)
      else if k < 14 then rs1.getLsbD (k - 9) else if k < 19 then rs2.getLsbD (k - 14) else false := by
  show BitVec.getLsbD (w := 13 + 5 + 5 + 5 + 1 + 3) ((0#13) ++ rs2 ++ rs1 ++ rd ++ bimm ++ op) k = _
  simp only [BitVec.getLsbD_append, BitVec.getLsbD_zero]
  have e1 : k - 3 - 1 = k - 4 := by omega
  have e2 : k - 4 - 5 = k - 9 := by omega
  have e3 : k - 9 - 5 = k - 14 := by omega
  rw [e1, e2, e3]
  repeat' split
  all_goals first | rfl | omega

section
variable (op : BitVec 3) (bimm : BitVec 1) (rd rs1 rs2 : BitVec 5) (v : Nat)

@[simp] theorem controlWord_opField : (PackedDIR.mk (controlWord op bimm rd rs1 rs2) v).opField = op := by
  refine BitVec.eq_of_getLsbD_eq fun i hi => ?_
  simp only [PackedDIR.opField, BitVec.getLsbD_extractLsb', controlWord_getLsbD]
  rw [if_pos (by omega)]; simp [hi]

@[simp] theorem controlWord_bimmField : (PackedDIR.mk (controlWord op bimm rd rs1 rs2) v).bimmField = bimm := by
  refine BitVec.eq_of_getLsbD_eq fun i hi => ?_
  simp only [PackedDIR.bimmField, BitVec.getLsbD_extractLsb', controlWord_getLsbD]
  rw [if_neg (by omega), if_pos (by omega)]; simp [hi]

@[simp] theorem controlWord_rdField : (PackedDIR.mk (controlWord op bimm rd rs1 rs2) v).rdField = rd := by
  refine BitVec.eq_of_getLsbD_eq fun i hi => ?_
  simp only [PackedDIR.rdField, BitVec.getLsbD_extractLsb', controlWord_getLsbD]
  rw [if_neg (by omega), if_neg (by omega), if_pos (by omega)]; simp [hi]

@[simp] theorem controlWord_rs1Field : (PackedDIR.mk (controlWord op bimm rd rs1 rs2) v).rs1Field = rs1 := by
  refine BitVec.eq_of_getLsbD_eq fun i hi => ?_
  simp only [PackedDIR.rs1Field, BitVec.getLsbD_extractLsb', controlWord_getLsbD]
  rw [if_neg (by omega), if_neg (by omega), if_neg (by omega), if_pos (by omega)]; simp [hi]

@[simp] theorem controlWord_rs2Field : (PackedDIR.mk (controlWord op bimm rd rs1 rs2) v).rs2Field = rs2 := by
  refine BitVec.eq_of_getLsbD_eq fun i hi => ?_
  simp only [PackedDIR.rs2Field, BitVec.getLsbD_extractLsb', controlWord_getLsbD]
  rw [if_neg (by omega), if_neg (by omega), if_neg (by omega), if_neg (by omega), if_pos (by omega)]; simp [hi]

@[simp] theorem controlWord_reservedField : (PackedDIR.mk (controlWord op bimm rd rs1 rs2) v).reservedField = 0 := by
  refine BitVec.eq_of_getLsbD_eq fun i hi => ?_
  simp only [PackedDIR.reservedField, BitVec.getLsbD_extractLsb', controlWord_getLsbD]
  rw [if_neg (by omega), if_neg (by omega), if_neg (by omega), if_neg (by omega), if_neg (by omega)]; simp

end

/-- A logical register number survives its field (R94). -/
@[simp] theorem lregOfField_fieldOfLReg (r : LReg) : lregOfField (fieldOfLReg r) = r := by
  apply Fin.ext
  simp only [lregOfField, fieldOfLReg, BitVec.toNat_ofNat]
  exact Nat.mod_eq_of_lt r.isLt

end Sys2Proof
end

