-- ==== Sys2Proof/Laws/State.lean ====
section
/-! SUPPORT. For each named update of the state, what each field is after it. -/

namespace Sys2Proof.Machine

section
variable (s : State)

@[simp] theorem withPc_pc (v : Nat) : (s.withPc v).pc = v := rfl
@[simp] theorem withPc_db (v : Nat) : (s.withPc v).db = s.db := rfl
@[simp] theorem withPc_rat (v : Nat) : (s.withPc v).rat = s.rat := rfl
@[simp] theorem withPc_prf (v : Nat) : (s.withPc v).prf = s.prf := rfl
@[simp] theorem withPc_busy (v : Nat) : (s.withPc v).busy = s.busy := rfl
@[simp] theorem withPc_fl (v : Nat) : (s.withPc v).fl = s.fl := rfl
@[simp] theorem withPc_al (v : Nat) : (s.withPc v).al = s.al := rfl
@[simp] theorem withPc_iq (v : Nat) : (s.withPc v).iq = s.iq := rfl
@[simp] theorem withPc_execLatch (v : Nat) : (s.withPc v).execLatch = s.execLatch := rfl
@[simp] theorem withPc_exception (v : Nat) : (s.withPc v).exception = s.exception := rfl
@[simp] theorem withPc_exceptionPC (v : Nat) : (s.withPc v).exceptionPC = s.exceptionPC := rfl
@[simp] theorem withPc_mode (v : Nat) : (s.withPc v).mode = s.mode := rfl
@[simp] theorem withPc_prog (v : Nat) : (s.withPc v).prog = s.prog := rfl
@[simp] theorem withPc_params (v : Nat) : (s.withPc v).params = s.params := rfl
@[simp] theorem withPc_trace (v : Nat) : (s.withPc v).trace = s.trace := rfl

@[simp] theorem withDb_pc (v : List DBEntry) : (s.withDb v).pc = s.pc := rfl
@[simp] theorem withDb_db (v : List DBEntry) : (s.withDb v).db = v := rfl
@[simp] theorem withDb_rat (v : List DBEntry) : (s.withDb v).rat = s.rat := rfl
@[simp] theorem withDb_prf (v : List DBEntry) : (s.withDb v).prf = s.prf := rfl
@[simp] theorem withDb_busy (v : List DBEntry) : (s.withDb v).busy = s.busy := rfl
@[simp] theorem withDb_fl (v : List DBEntry) : (s.withDb v).fl = s.fl := rfl
@[simp] theorem withDb_al (v : List DBEntry) : (s.withDb v).al = s.al := rfl
@[simp] theorem withDb_iq (v : List DBEntry) : (s.withDb v).iq = s.iq := rfl
@[simp] theorem withDb_execLatch (v : List DBEntry) : (s.withDb v).execLatch = s.execLatch := rfl
@[simp] theorem withDb_exception (v : List DBEntry) : (s.withDb v).exception = s.exception := rfl
@[simp] theorem withDb_exceptionPC (v : List DBEntry) : (s.withDb v).exceptionPC = s.exceptionPC := rfl
@[simp] theorem withDb_mode (v : List DBEntry) : (s.withDb v).mode = s.mode := rfl
@[simp] theorem withDb_prog (v : List DBEntry) : (s.withDb v).prog = s.prog := rfl
@[simp] theorem withDb_params (v : List DBEntry) : (s.withDb v).params = s.params := rfl
@[simp] theorem withDb_trace (v : List DBEntry) : (s.withDb v).trace = s.trace := rfl

@[simp] theorem writeRat_pc (r : LReg) (p : PReg) : (s.writeRat r p).pc = s.pc := rfl
@[simp] theorem writeRat_db (r : LReg) (p : PReg) : (s.writeRat r p).db = s.db := rfl
@[simp] theorem writeRat_rat (r : LReg) (p : PReg) : (s.writeRat r p).rat = s.rat.set r.val p := rfl
@[simp] theorem writeRat_prf (r : LReg) (p : PReg) : (s.writeRat r p).prf = s.prf := rfl
@[simp] theorem writeRat_busy (r : LReg) (p : PReg) : (s.writeRat r p).busy = s.busy := rfl
@[simp] theorem writeRat_fl (r : LReg) (p : PReg) : (s.writeRat r p).fl = s.fl := rfl
@[simp] theorem writeRat_al (r : LReg) (p : PReg) : (s.writeRat r p).al = s.al := rfl
@[simp] theorem writeRat_iq (r : LReg) (p : PReg) : (s.writeRat r p).iq = s.iq := rfl
@[simp] theorem writeRat_execLatch (r : LReg) (p : PReg) : (s.writeRat r p).execLatch = s.execLatch := rfl
@[simp] theorem writeRat_exception (r : LReg) (p : PReg) : (s.writeRat r p).exception = s.exception := rfl
@[simp] theorem writeRat_exceptionPC (r : LReg) (p : PReg) : (s.writeRat r p).exceptionPC = s.exceptionPC := rfl
@[simp] theorem writeRat_mode (r : LReg) (p : PReg) : (s.writeRat r p).mode = s.mode := rfl
@[simp] theorem writeRat_prog (r : LReg) (p : PReg) : (s.writeRat r p).prog = s.prog := rfl
@[simp] theorem writeRat_params (r : LReg) (p : PReg) : (s.writeRat r p).params = s.params := rfl
@[simp] theorem writeRat_trace (r : LReg) (p : PReg) : (s.writeRat r p).trace = s.trace := rfl

@[simp] theorem writePrf_pc (p : PReg) (v : Nat) : (s.writePrf p v).pc = s.pc := rfl
@[simp] theorem writePrf_db (p : PReg) (v : Nat) : (s.writePrf p v).db = s.db := rfl
@[simp] theorem writePrf_rat (p : PReg) (v : Nat) : (s.writePrf p v).rat = s.rat := rfl
@[simp] theorem writePrf_prf (p : PReg) (v : Nat) : (s.writePrf p v).prf = s.prf.set p.val v := rfl
@[simp] theorem writePrf_busy (p : PReg) (v : Nat) : (s.writePrf p v).busy = s.busy := rfl
@[simp] theorem writePrf_fl (p : PReg) (v : Nat) : (s.writePrf p v).fl = s.fl := rfl
@[simp] theorem writePrf_al (p : PReg) (v : Nat) : (s.writePrf p v).al = s.al := rfl
@[simp] theorem writePrf_iq (p : PReg) (v : Nat) : (s.writePrf p v).iq = s.iq := rfl
@[simp] theorem writePrf_execLatch (p : PReg) (v : Nat) : (s.writePrf p v).execLatch = s.execLatch := rfl
@[simp] theorem writePrf_exception (p : PReg) (v : Nat) : (s.writePrf p v).exception = s.exception := rfl
@[simp] theorem writePrf_exceptionPC (p : PReg) (v : Nat) : (s.writePrf p v).exceptionPC = s.exceptionPC := rfl
@[simp] theorem writePrf_mode (p : PReg) (v : Nat) : (s.writePrf p v).mode = s.mode := rfl
@[simp] theorem writePrf_prog (p : PReg) (v : Nat) : (s.writePrf p v).prog = s.prog := rfl
@[simp] theorem writePrf_params (p : PReg) (v : Nat) : (s.writePrf p v).params = s.params := rfl
@[simp] theorem writePrf_trace (p : PReg) (v : Nat) : (s.writePrf p v).trace = s.trace := rfl

@[simp] theorem writeBusy_pc (p : PReg) (b : Bool) : (s.writeBusy p b).pc = s.pc := rfl
@[simp] theorem writeBusy_db (p : PReg) (b : Bool) : (s.writeBusy p b).db = s.db := rfl
@[simp] theorem writeBusy_rat (p : PReg) (b : Bool) : (s.writeBusy p b).rat = s.rat := rfl
@[simp] theorem writeBusy_prf (p : PReg) (b : Bool) : (s.writeBusy p b).prf = s.prf := rfl
@[simp] theorem writeBusy_busy (p : PReg) (b : Bool) : (s.writeBusy p b).busy = s.busy.set p.val b := rfl
@[simp] theorem writeBusy_fl (p : PReg) (b : Bool) : (s.writeBusy p b).fl = s.fl := rfl
@[simp] theorem writeBusy_al (p : PReg) (b : Bool) : (s.writeBusy p b).al = s.al := rfl
@[simp] theorem writeBusy_iq (p : PReg) (b : Bool) : (s.writeBusy p b).iq = s.iq := rfl
@[simp] theorem writeBusy_execLatch (p : PReg) (b : Bool) : (s.writeBusy p b).execLatch = s.execLatch := rfl
@[simp] theorem writeBusy_exception (p : PReg) (b : Bool) : (s.writeBusy p b).exception = s.exception := rfl
@[simp] theorem writeBusy_exceptionPC (p : PReg) (b : Bool) : (s.writeBusy p b).exceptionPC = s.exceptionPC := rfl
@[simp] theorem writeBusy_mode (p : PReg) (b : Bool) : (s.writeBusy p b).mode = s.mode := rfl
@[simp] theorem writeBusy_prog (p : PReg) (b : Bool) : (s.writeBusy p b).prog = s.prog := rfl
@[simp] theorem writeBusy_params (p : PReg) (b : Bool) : (s.writeBusy p b).params = s.params := rfl
@[simp] theorem writeBusy_trace (p : PReg) (b : Bool) : (s.writeBusy p b).trace = s.trace := rfl

@[simp] theorem withFl_pc (v : List PReg) : (s.withFl v).pc = s.pc := rfl
@[simp] theorem withFl_db (v : List PReg) : (s.withFl v).db = s.db := rfl
@[simp] theorem withFl_rat (v : List PReg) : (s.withFl v).rat = s.rat := rfl
@[simp] theorem withFl_prf (v : List PReg) : (s.withFl v).prf = s.prf := rfl
@[simp] theorem withFl_busy (v : List PReg) : (s.withFl v).busy = s.busy := rfl
@[simp] theorem withFl_fl (v : List PReg) : (s.withFl v).fl = v := rfl
@[simp] theorem withFl_al (v : List PReg) : (s.withFl v).al = s.al := rfl
@[simp] theorem withFl_iq (v : List PReg) : (s.withFl v).iq = s.iq := rfl
@[simp] theorem withFl_execLatch (v : List PReg) : (s.withFl v).execLatch = s.execLatch := rfl
@[simp] theorem withFl_exception (v : List PReg) : (s.withFl v).exception = s.exception := rfl
@[simp] theorem withFl_exceptionPC (v : List PReg) : (s.withFl v).exceptionPC = s.exceptionPC := rfl
@[simp] theorem withFl_mode (v : List PReg) : (s.withFl v).mode = s.mode := rfl
@[simp] theorem withFl_prog (v : List PReg) : (s.withFl v).prog = s.prog := rfl
@[simp] theorem withFl_params (v : List PReg) : (s.withFl v).params = s.params := rfl
@[simp] theorem withFl_trace (v : List PReg) : (s.withFl v).trace = s.trace := rfl

@[simp] theorem withAl_pc (v : List ALEntry) : (s.withAl v).pc = s.pc := rfl
@[simp] theorem withAl_db (v : List ALEntry) : (s.withAl v).db = s.db := rfl
@[simp] theorem withAl_rat (v : List ALEntry) : (s.withAl v).rat = s.rat := rfl
@[simp] theorem withAl_prf (v : List ALEntry) : (s.withAl v).prf = s.prf := rfl
@[simp] theorem withAl_busy (v : List ALEntry) : (s.withAl v).busy = s.busy := rfl
@[simp] theorem withAl_fl (v : List ALEntry) : (s.withAl v).fl = s.fl := rfl
@[simp] theorem withAl_al (v : List ALEntry) : (s.withAl v).al = v := rfl
@[simp] theorem withAl_iq (v : List ALEntry) : (s.withAl v).iq = s.iq := rfl
@[simp] theorem withAl_execLatch (v : List ALEntry) : (s.withAl v).execLatch = s.execLatch := rfl
@[simp] theorem withAl_exception (v : List ALEntry) : (s.withAl v).exception = s.exception := rfl
@[simp] theorem withAl_exceptionPC (v : List ALEntry) : (s.withAl v).exceptionPC = s.exceptionPC := rfl
@[simp] theorem withAl_mode (v : List ALEntry) : (s.withAl v).mode = s.mode := rfl
@[simp] theorem withAl_prog (v : List ALEntry) : (s.withAl v).prog = s.prog := rfl
@[simp] theorem withAl_params (v : List ALEntry) : (s.withAl v).params = s.params := rfl
@[simp] theorem withAl_trace (v : List ALEntry) : (s.withAl v).trace = s.trace := rfl

@[simp] theorem withIq_pc (v : List IQEntry) : (s.withIq v).pc = s.pc := rfl
@[simp] theorem withIq_db (v : List IQEntry) : (s.withIq v).db = s.db := rfl
@[simp] theorem withIq_rat (v : List IQEntry) : (s.withIq v).rat = s.rat := rfl
@[simp] theorem withIq_prf (v : List IQEntry) : (s.withIq v).prf = s.prf := rfl
@[simp] theorem withIq_busy (v : List IQEntry) : (s.withIq v).busy = s.busy := rfl
@[simp] theorem withIq_fl (v : List IQEntry) : (s.withIq v).fl = s.fl := rfl
@[simp] theorem withIq_al (v : List IQEntry) : (s.withIq v).al = s.al := rfl
@[simp] theorem withIq_iq (v : List IQEntry) : (s.withIq v).iq = v := rfl
@[simp] theorem withIq_execLatch (v : List IQEntry) : (s.withIq v).execLatch = s.execLatch := rfl
@[simp] theorem withIq_exception (v : List IQEntry) : (s.withIq v).exception = s.exception := rfl
@[simp] theorem withIq_exceptionPC (v : List IQEntry) : (s.withIq v).exceptionPC = s.exceptionPC := rfl
@[simp] theorem withIq_mode (v : List IQEntry) : (s.withIq v).mode = s.mode := rfl
@[simp] theorem withIq_prog (v : List IQEntry) : (s.withIq v).prog = s.prog := rfl
@[simp] theorem withIq_params (v : List IQEntry) : (s.withIq v).params = s.params := rfl
@[simp] theorem withIq_trace (v : List IQEntry) : (s.withIq v).trace = s.trace := rfl

@[simp] theorem withExecLatch_pc (v : List IQEntry) : (s.withExecLatch v).pc = s.pc := rfl
@[simp] theorem withExecLatch_db (v : List IQEntry) : (s.withExecLatch v).db = s.db := rfl
@[simp] theorem withExecLatch_rat (v : List IQEntry) : (s.withExecLatch v).rat = s.rat := rfl
@[simp] theorem withExecLatch_prf (v : List IQEntry) : (s.withExecLatch v).prf = s.prf := rfl
@[simp] theorem withExecLatch_busy (v : List IQEntry) : (s.withExecLatch v).busy = s.busy := rfl
@[simp] theorem withExecLatch_fl (v : List IQEntry) : (s.withExecLatch v).fl = s.fl := rfl
@[simp] theorem withExecLatch_al (v : List IQEntry) : (s.withExecLatch v).al = s.al := rfl
@[simp] theorem withExecLatch_iq (v : List IQEntry) : (s.withExecLatch v).iq = s.iq := rfl
@[simp] theorem withExecLatch_execLatch (v : List IQEntry) : (s.withExecLatch v).execLatch = v := rfl
@[simp] theorem withExecLatch_exception (v : List IQEntry) : (s.withExecLatch v).exception = s.exception := rfl
@[simp] theorem withExecLatch_exceptionPC (v : List IQEntry) : (s.withExecLatch v).exceptionPC = s.exceptionPC := rfl
@[simp] theorem withExecLatch_mode (v : List IQEntry) : (s.withExecLatch v).mode = s.mode := rfl
@[simp] theorem withExecLatch_prog (v : List IQEntry) : (s.withExecLatch v).prog = s.prog := rfl
@[simp] theorem withExecLatch_params (v : List IQEntry) : (s.withExecLatch v).params = s.params := rfl
@[simp] theorem withExecLatch_trace (v : List IQEntry) : (s.withExecLatch v).trace = s.trace := rfl

@[simp] theorem withException_pc (v : Bool) : (s.withException v).pc = s.pc := rfl
@[simp] theorem withException_db (v : Bool) : (s.withException v).db = s.db := rfl
@[simp] theorem withException_rat (v : Bool) : (s.withException v).rat = s.rat := rfl
@[simp] theorem withException_prf (v : Bool) : (s.withException v).prf = s.prf := rfl
@[simp] theorem withException_busy (v : Bool) : (s.withException v).busy = s.busy := rfl
@[simp] theorem withException_fl (v : Bool) : (s.withException v).fl = s.fl := rfl
@[simp] theorem withException_al (v : Bool) : (s.withException v).al = s.al := rfl
@[simp] theorem withException_iq (v : Bool) : (s.withException v).iq = s.iq := rfl
@[simp] theorem withException_execLatch (v : Bool) : (s.withException v).execLatch = s.execLatch := rfl
@[simp] theorem withException_exception (v : Bool) : (s.withException v).exception = v := rfl
@[simp] theorem withException_exceptionPC (v : Bool) : (s.withException v).exceptionPC = s.exceptionPC := rfl
@[simp] theorem withException_mode (v : Bool) : (s.withException v).mode = s.mode := rfl
@[simp] theorem withException_prog (v : Bool) : (s.withException v).prog = s.prog := rfl
@[simp] theorem withException_params (v : Bool) : (s.withException v).params = s.params := rfl
@[simp] theorem withException_trace (v : Bool) : (s.withException v).trace = s.trace := rfl

@[simp] theorem withExceptionPC_pc (v : Nat) : (s.withExceptionPC v).pc = s.pc := rfl
@[simp] theorem withExceptionPC_db (v : Nat) : (s.withExceptionPC v).db = s.db := rfl
@[simp] theorem withExceptionPC_rat (v : Nat) : (s.withExceptionPC v).rat = s.rat := rfl
@[simp] theorem withExceptionPC_prf (v : Nat) : (s.withExceptionPC v).prf = s.prf := rfl
@[simp] theorem withExceptionPC_busy (v : Nat) : (s.withExceptionPC v).busy = s.busy := rfl
@[simp] theorem withExceptionPC_fl (v : Nat) : (s.withExceptionPC v).fl = s.fl := rfl
@[simp] theorem withExceptionPC_al (v : Nat) : (s.withExceptionPC v).al = s.al := rfl
@[simp] theorem withExceptionPC_iq (v : Nat) : (s.withExceptionPC v).iq = s.iq := rfl
@[simp] theorem withExceptionPC_execLatch (v : Nat) : (s.withExceptionPC v).execLatch = s.execLatch := rfl
@[simp] theorem withExceptionPC_exception (v : Nat) : (s.withExceptionPC v).exception = s.exception := rfl
@[simp] theorem withExceptionPC_exceptionPC (v : Nat) : (s.withExceptionPC v).exceptionPC = v := rfl
@[simp] theorem withExceptionPC_mode (v : Nat) : (s.withExceptionPC v).mode = s.mode := rfl
@[simp] theorem withExceptionPC_prog (v : Nat) : (s.withExceptionPC v).prog = s.prog := rfl
@[simp] theorem withExceptionPC_params (v : Nat) : (s.withExceptionPC v).params = s.params := rfl
@[simp] theorem withExceptionPC_trace (v : Nat) : (s.withExceptionPC v).trace = s.trace := rfl

@[simp] theorem withMode_pc (v : Mode) : (s.withMode v).pc = s.pc := rfl
@[simp] theorem withMode_db (v : Mode) : (s.withMode v).db = s.db := rfl
@[simp] theorem withMode_rat (v : Mode) : (s.withMode v).rat = s.rat := rfl
@[simp] theorem withMode_prf (v : Mode) : (s.withMode v).prf = s.prf := rfl
@[simp] theorem withMode_busy (v : Mode) : (s.withMode v).busy = s.busy := rfl
@[simp] theorem withMode_fl (v : Mode) : (s.withMode v).fl = s.fl := rfl
@[simp] theorem withMode_al (v : Mode) : (s.withMode v).al = s.al := rfl
@[simp] theorem withMode_iq (v : Mode) : (s.withMode v).iq = s.iq := rfl
@[simp] theorem withMode_execLatch (v : Mode) : (s.withMode v).execLatch = s.execLatch := rfl
@[simp] theorem withMode_exception (v : Mode) : (s.withMode v).exception = s.exception := rfl
@[simp] theorem withMode_exceptionPC (v : Mode) : (s.withMode v).exceptionPC = s.exceptionPC := rfl
@[simp] theorem withMode_mode (v : Mode) : (s.withMode v).mode = v := rfl
@[simp] theorem withMode_prog (v : Mode) : (s.withMode v).prog = s.prog := rfl
@[simp] theorem withMode_params (v : Mode) : (s.withMode v).params = s.params := rfl
@[simp] theorem withMode_trace (v : Mode) : (s.withMode v).trace = s.trace := rfl

@[simp] theorem withTrace_pc (v : List Snapshot) : (s.withTrace v).pc = s.pc := rfl
@[simp] theorem withTrace_db (v : List Snapshot) : (s.withTrace v).db = s.db := rfl
@[simp] theorem withTrace_rat (v : List Snapshot) : (s.withTrace v).rat = s.rat := rfl
@[simp] theorem withTrace_prf (v : List Snapshot) : (s.withTrace v).prf = s.prf := rfl
@[simp] theorem withTrace_busy (v : List Snapshot) : (s.withTrace v).busy = s.busy := rfl
@[simp] theorem withTrace_fl (v : List Snapshot) : (s.withTrace v).fl = s.fl := rfl
@[simp] theorem withTrace_al (v : List Snapshot) : (s.withTrace v).al = s.al := rfl
@[simp] theorem withTrace_iq (v : List Snapshot) : (s.withTrace v).iq = s.iq := rfl
@[simp] theorem withTrace_execLatch (v : List Snapshot) : (s.withTrace v).execLatch = s.execLatch := rfl
@[simp] theorem withTrace_exception (v : List Snapshot) : (s.withTrace v).exception = s.exception := rfl
@[simp] theorem withTrace_exceptionPC (v : List Snapshot) : (s.withTrace v).exceptionPC = s.exceptionPC := rfl
@[simp] theorem withTrace_mode (v : List Snapshot) : (s.withTrace v).mode = s.mode := rfl
@[simp] theorem withTrace_prog (v : List Snapshot) : (s.withTrace v).prog = s.prog := rfl
@[simp] theorem withTrace_params (v : List Snapshot) : (s.withTrace v).params = s.params := rfl
@[simp] theorem withTrace_trace (v : List Snapshot) : (s.withTrace v).trace = v := rfl

@[simp] theorem withProg_pc (v : List ProgItem) : (s.withProg v).pc = s.pc := rfl
@[simp] theorem withProg_db (v : List ProgItem) : (s.withProg v).db = s.db := rfl
@[simp] theorem withProg_rat (v : List ProgItem) : (s.withProg v).rat = s.rat := rfl
@[simp] theorem withProg_prf (v : List ProgItem) : (s.withProg v).prf = s.prf := rfl
@[simp] theorem withProg_busy (v : List ProgItem) : (s.withProg v).busy = s.busy := rfl
@[simp] theorem withProg_fl (v : List ProgItem) : (s.withProg v).fl = s.fl := rfl
@[simp] theorem withProg_al (v : List ProgItem) : (s.withProg v).al = s.al := rfl
@[simp] theorem withProg_iq (v : List ProgItem) : (s.withProg v).iq = s.iq := rfl
@[simp] theorem withProg_execLatch (v : List ProgItem) : (s.withProg v).execLatch = s.execLatch := rfl
@[simp] theorem withProg_exception (v : List ProgItem) : (s.withProg v).exception = s.exception := rfl
@[simp] theorem withProg_exceptionPC (v : List ProgItem) : (s.withProg v).exceptionPC = s.exceptionPC := rfl
@[simp] theorem withProg_mode (v : List ProgItem) : (s.withProg v).mode = s.mode := rfl
@[simp] theorem withProg_prog (v : List ProgItem) : (s.withProg v).prog = v := rfl
@[simp] theorem withProg_params (v : List ProgItem) : (s.withProg v).params = s.params := rfl
@[simp] theorem withProg_trace (v : List ProgItem) : (s.withProg v).trace = s.trace := rfl

end

end Sys2Proof.Machine
end

