-- ==== Sys2Proof/Laws/Memory.lean ====
section
/-! SUPPORT. The program index space: reading it, and its one write, the host's load. -/

namespace Sys2Proof.Machine

/-- No location is at `N` or above (R71). -/
theorem memory_read_eq_none_iff (prog : List ProgItem) (i : Nat) : Memory.read prog i = none ↔ prog.length ≤ i := by
  simp [Memory.read]

theorem memory_loadAt_length (prog : List ProgItem) (i : Nat) (item : ProgItem) :
    (Memory.loadAt prog i item).length = i + 1 := by
  simp [Memory.loadAt]; omega

/-- The loaded item is what location `i` then holds. -/
theorem memory_read_loadAt_same (prog : List ProgItem) (i : Nat) (item : ProgItem) :
    Memory.read (Memory.loadAt prog i item) i = some item := by
  have h : (prog.take i ++ List.replicate (i - prog.length) item).length = i := by simp; omega
  simp only [Memory.read, Memory.loadAt]
  rw [List.getElem?_append_right (by omega), h]
  simp

/-- A load leaves the locations below it that held something. -/
theorem memory_read_loadAt_below (prog : List ProgItem) (i j : Nat) (item : ProgItem) (hi : j < i) (hj : j < prog.length) :
    Memory.read (Memory.loadAt prog i item) j = Memory.read prog j := by
  have h : j < (prog.take i).length := by simp; omega
  simp only [Memory.read, Memory.loadAt, List.append_assoc]
  rw [List.getElem?_append_left h, List.getElem?_take_of_lt hi]

/-- The load keeps the bound of the index space when the location lies in it. -/
theorem memory_loadAt_wf (prog : List ProgItem) (i : Nat) (item : ProgItem) (h : i < Config.maxProgram) :
    Memory.wf (Memory.loadAt prog i item) := by
  show _ ≤ _
  rw [memory_loadAt_length]; omega

/-- The reset state's program index space has the canonical form. -/
theorem memory_wf_reset : Memory.wf State.reset.prog := by decide

end Sys2Proof.Machine
end

