-- ==== Sys2Proof/Laws/Ops.lean ====
section
/-! SUPPORT. The shared operations of `Machine/Ops.lean`, each with the lemmas that say what it can do. -/

namespace Sys2Proof.Machine

@[simp] theorem andThen_next (s : State) (f : State → Result) : andThen (.next s) f = f s := rfl
@[simp] theorem andThen_fault (r : Fault) (f : State → Result) : andThen (.fault r) f = .fault r := rfl
@[simp] theorem andThen_refused (r : Refusal) (f : State → Result) : andThen (.refused r) f = .refused r := rfl

/-- A sequence answers a next state exactly when its first part does and its second does from there. -/
theorem andThen_eq_next_iff (o : Result) (f : State → Result) (t : State) :
    andThen o f = .next t ↔ ∃ u, o = .next u ∧ f u = .next t := by
  cases o <;> simp

/-- A sequence faults in its first part, or in its second from the first's next state. -/
theorem andThen_eq_fault_iff (o : Result) (f : State → Result) (r : Fault) :
    andThen o f = .fault r ↔ o = .fault r ∨ ∃ u, o = .next u ∧ f u = .fault r := by
  cases o <;> simp

/-- A sequence is refused in its first part, or in its second from the first's next state. -/
theorem andThen_eq_refused_iff (o : Result) (f : State → Result) (r : Refusal) :
    andThen o f = .refused r ↔ o = .refused r ∨ ∃ u, o = .next u ∧ f u = .refused r := by
  cases o <;> simp

/-! Register structures: a read after a write. -/

theorem mapOf_writeRat (s : State) (r q : LReg) (p : PReg) :
    (s.writeRat r p).mapOf q = if q = r then p else s.mapOf q := by
  unfold State.mapOf State.writeRat
  by_cases h : q = r
  · subst h; simp
  · have : r.val ≠ q.val := fun e => h (Fin.ext e.symm)
    simp [h, this]

theorem prfAt_writePrf (s : State) (p q : PReg) (v : Nat) :
    (s.writePrf p v).prfAt q = if q = p then v else s.prfAt q := by
  unfold State.prfAt State.writePrf
  by_cases h : q = p
  · subst h; simp
  · have : p.val ≠ q.val := fun e => h (Fin.ext e.symm)
    simp [h, this]

theorem isBusy_writeBusy (s : State) (p q : PReg) (b : Bool) :
    (s.writeBusy p b).isBusy q = if q = p then b else s.isBusy q := by
  unfold State.isBusy State.writeBusy
  by_cases h : q = p
  · subst h; simp
  · have : p.val ≠ q.val := fun e => h (Fin.ext e.symm)
    simp [h, this]

/-- Two states with the same RAT read the same mappings. -/
theorem mapOf_congr (s t : State) (h : t.rat = s.rat) (r : LReg) : t.mapOf r = s.mapOf r := by
  simp [State.mapOf, h]

/-- Two states with the same register file read the same values. -/
theorem prfAt_congr (s t : State) (h : t.prf = s.prf) (p : PReg) : t.prfAt p = s.prfAt p := by
  simp [State.prfAt, h]

/-- Two states with the same Busy bits read the same bits. -/
theorem isBusy_congr (s t : State) (h : t.busy = s.busy) (p : PReg) : t.isBusy p = s.isBusy p := by
  simp [State.isBusy, h]

/-- A RAT write leaves the Busy bits and values of every physical register. -/
@[simp] theorem isBusy_writeRat (s : State) (r : LReg) (p q : PReg) : (s.writeRat r p).isBusy q = s.isBusy q := rfl
@[simp] theorem prfAt_writeRat (s : State) (r : LReg) (p q : PReg) : (s.writeRat r p).prfAt q = s.prfAt q := rfl
@[simp] theorem mapOf_writePrf (s : State) (p : PReg) (v : Nat) (r : LReg) : (s.writePrf p v).mapOf r = s.mapOf r := rfl
@[simp] theorem isBusy_writePrf (s : State) (p q : PReg) (v : Nat) : (s.writePrf p v).isBusy q = s.isBusy q := rfl
@[simp] theorem mapOf_writeBusy (s : State) (p : PReg) (b : Bool) (r : LReg) : (s.writeBusy p b).mapOf r = s.mapOf r := rfl
@[simp] theorem prfAt_writeBusy (s : State) (p q : PReg) (b : Bool) : (s.writeBusy p b).prfAt q = s.prfAt q := rfl

/-- The Free List after a push (R36): the register at the back, nothing else changed. -/
theorem pushFree_eq (s : State) (p : PReg) : s.pushFree p = { s with fl := s.fl ++ [p] } := rfl

/-- Taking the fault (R253, R275): three registers written, nothing else changed. -/
theorem takeFault_eq (s : State) (pc : Nat) :
    s.takeFault pc = { s with exceptionPC := pc, pc := faultVector, exception := true } := rfl

/-- The end of recovery (R287): the indicator is cleared, nothing else changed. -/
theorem clearFault_eq (s : State) : s.clearFault = { s with exception := false } := rfl

/-- A snapshot changes the trace only (R127). -/
theorem emit_eq (s : State) : s.emit = { s with trace := s.trace ++ [s.snapshot] } := rfl

/-- What a snapshot shows does not depend on the trace, the mode, the latch, the program or the parameters (R126). -/
theorem snapshot_withTrace (s : State) (l : List Snapshot) : (s.withTrace l).snapshot = s.snapshot := rfl
theorem snapshot_withMode (s : State) (m : Mode) : (s.withMode m).snapshot = s.snapshot := rfl

/-- The fault vector is 65536 (R72). -/
theorem faultVector_eq : faultVector = 65536 := rfl

/-- What a launch can answer (R130, R316; log 1). -/
theorem launch_cases (inp : LaunchInput) :
    (inp.accepted ∧ launch inp = .next (State.launched inp)) ∨
    (¬ programFits inp.prog ∧ launch inp = .refused .programTooLong) ∨
    (programFits inp.prog ∧ ¬ inp.fits ∧ launch inp = .refused .valueOutOfWidth) := by
  by_cases hp : programFits inp.prog
  · by_cases hf : inp.fits
    · exact .inl ⟨⟨hp, hf⟩, by rw [launch, if_pos hp, if_pos hf]⟩
    · exact .inr (.inr ⟨hp, hf, by rw [launch, if_pos hp, if_neg hf]⟩)
  · exact .inr (.inl ⟨hp, by rw [launch, if_neg hp]⟩)

end Sys2Proof.Machine
end

