-- ==== Sys2Proof/Laws/PerInstr.lean ====
section
/-! SUPPORT. Families of facts about every instruction form as syntax, one lemma for each constructor. -/

namespace Sys2Proof.Laws

/-- The packed record the encoder writes for an instruction passes all four checks of R97. -/
def EncodingCanonical.Statement (i : Instr) : Prop := (encode i).canonical

section
variable (rd rs1 rs2 : LReg) (imm : Nat)

/-- A register form's record is canonical: its `IMM` is 0 (R97). -/
theorem registerRecord_canonical (op : Opcode) :
    (PackedDIR.mk (controlWord (opBits op) 0 (fieldOfLReg rd) (fieldOfLReg rs1) (fieldOfLReg rs2)) 0).canonical := by
  refine ⟨?_, by simp [PackedDIR.reservedOk], by simp [PackedDIR.rs2Ok], by simp [PackedDIR.immOk]⟩
  cases op <;> simp [PackedDIR.opOk, opBits]

/-- An immediate form's record is canonical: its `rs2` field is 0 (R97). -/
theorem immediateRecord_canonical (op : Opcode) :
    (PackedDIR.mk (controlWord (opBits op) 1 (fieldOfLReg rd) (fieldOfLReg rs1) 0) imm).canonical := by
  refine ⟨?_, by simp [PackedDIR.reservedOk], by simp [PackedDIR.rs2Ok], by simp [PackedDIR.immOk]⟩
  cases op <;> simp [PackedDIR.opOk, opBits]

theorem EncodingCanonical.add : EncodingCanonical.Statement (.add rd rs1 rs2) := registerRecord_canonical rd rs1 rs2 .add
theorem EncodingCanonical.addi : EncodingCanonical.Statement (.addi rd rs1 imm) := immediateRecord_canonical rd rs1 imm .add
theorem EncodingCanonical.sub : EncodingCanonical.Statement (.sub rd rs1 rs2) := registerRecord_canonical rd rs1 rs2 .sub
theorem EncodingCanonical.subImm : EncodingCanonical.Statement (.subImm rd rs1 imm) := immediateRecord_canonical rd rs1 imm .sub
theorem EncodingCanonical.mulu : EncodingCanonical.Statement (.mulu rd rs1 rs2) := registerRecord_canonical rd rs1 rs2 .mulu
theorem EncodingCanonical.muluImm : EncodingCanonical.Statement (.muluImm rd rs1 imm) := immediateRecord_canonical rd rs1 imm .mulu
theorem EncodingCanonical.divu : EncodingCanonical.Statement (.divu rd rs1 rs2) := registerRecord_canonical rd rs1 rs2 .divu
theorem EncodingCanonical.divuImm : EncodingCanonical.Statement (.divuImm rd rs1 imm) := immediateRecord_canonical rd rs1 imm .divu
theorem EncodingCanonical.remu : EncodingCanonical.Statement (.remu rd rs1 rs2) := registerRecord_canonical rd rs1 rs2 .remu
theorem EncodingCanonical.remuImm : EncodingCanonical.Statement (.remuImm rd rs1 imm) := immediateRecord_canonical rd rs1 imm .remu

end

end Sys2Proof.Laws
end

