-- ==== Sys2Proof/Laws/Stages.lean ====
section
/-! SUPPORT. One spec lemma for each block of the cycle and for the step: what it answers, and from what. -/

namespace Sys2Proof.Machine

/-! ### Rename/Dispatch -/

/-- Every meaning renames and dispatches its record's fields (R160 to R166). -/
theorem exec_eq_renameDispatch (i : Instr) (s : State) : exec i s = .next (renameDispatch i.op i.rd i.rs1 i.srcB s) := by
  cases i <;> rfl

theorem renameDispatch_nil (op : Opcode) (rd rs1 : LReg) (src : OperandB) (s : State) (h : s.fl = []) :
    renameDispatch op rd rs1 src s = s := by
  simp [renameDispatch, h]

theorem renameDispatch_cons (op : Opcode) (rd rs1 : LReg) (src : OperandB) (s : State) (p : PReg) (rest : List PReg)
    (h : s.fl = p :: rest) : renameDispatch op rd rs1 src s = s.allocate op rd rs1 src p rest := by
  simp [renameDispatch, h]

/-- Renaming and dispatching writes the RAT, the Busy bits and the three lists, nothing else. -/
theorem renameDispatch_frame (op : Opcode) (rd rs1 : LReg) (src : OperandB) (s : State) :
    let t := renameDispatch op rd rs1 src s
    t.prf = s.prf ∧ t.pc = s.pc ∧ t.db = s.db ∧ t.execLatch = s.execLatch ∧ t.exception = s.exception ∧
      t.exceptionPC = s.exceptionPC ∧ t.mode = s.mode ∧ t.prog = s.prog ∧ t.params = s.params ∧ t.trace = s.trace := by
  cases h : s.fl with
  | nil => simp [renameDispatch_nil _ _ _ _ _ h]
  | cons p rest => simp [renameDispatch_cons _ _ _ _ _ _ _ h, State.allocate]

/-- The dispatch loop always answers a next state: one instruction's records, then the rest. -/
theorem dispatchLoop_cons (e : DBEntry) (rest remaining : List DBEntry) (s : State) :
    dispatchLoop (e :: rest) remaining s =
      dispatchLoop rest (if s.fl.isEmpty then remaining ++ [e] else remaining)
        (renameDispatch e.instr.op e.instr.rd e.instr.rs1 e.instr.srcB (s.withDb (e :: rest))) := by
  simp [dispatchLoop, exec_eq_renameDispatch]

theorem dispatchLoop_nil (remaining : List DBEntry) (s : State) :
    dispatchLoop [] remaining s = .next (s.withDb (s.stalledBuffer remaining)) := rfl

theorem dispatchLoop_answers_next (batch remaining : List DBEntry) (s : State) :
    ∃ t, dispatchLoop batch remaining s = .next t := by
  induction batch generalizing remaining s with
  | nil => exact ⟨_, rfl⟩
  | cons e rest ih => rw [dispatchLoop_cons]; exact ih _ _

/-! ### Fetch/Decode -/

/-- Fetch/Decode in its three cases: disabled, a batch, a fatal decode error (R141 to R144). -/
theorem fetchDecode_cases (s : State) :
    (s.db ≠ [] ∧ fetchDecode s = .next s) ∨
    (s.db = [] ∧ ∃ entries, fetchFrom s.params.xlen s.prog (fetchCount s.pc s.progLen) s.pc = .ok entries ∧
      fetchDecode s = .next ((s.withDb entries).withPc (s.pc + fetchCount s.pc s.progLen))) ∨
    (s.db = [] ∧ ∃ r, fetchFrom s.params.xlen s.prog (fetchCount s.pc s.progLen) s.pc = .error r ∧ fetchDecode s = .fault r) := by
  by_cases h : s.db = []
  · right
    cases hf : fetchFrom s.params.xlen s.prog (fetchCount s.pc s.progLen) s.pc with
    | ok entries => exact .inl ⟨h, entries, rfl, by simp [fetchDecode, h, hf]⟩
    | error r => exact .inr ⟨h, r, rfl, by simp [fetchDecode, h, hf]⟩
  · exact .inl ⟨h, by simp [fetchDecode, h]⟩

/-- A fetch that gives a batch gives at most as many entries as it asks for. -/
theorem fetchFrom_length_le (xlen : Nat) (prog : List ProgItem) (k i : Nat) (entries : List DBEntry) (h : fetchFrom xlen prog k i = .ok entries) :
    entries.length ≤ k := by
  induction k generalizing i entries with
  | zero => simp [fetchFrom] at h; simp [← h]
  | succ k ih =>
    simp only [fetchFrom] at h
    split at h
    · cases h; exact Nat.zero_le _
    · split at h
      · cases h
      · split at h
        · cases h
        · rename_i rest hr
          cases h
          exact Nat.succ_le_succ (ih _ _ hr)

/-! ### Execute -/

/-- An entry executes exactly when the Active List has an entry with its PC (R202). -/
theorem executeOne_cases (e : IQEntry) (s : State) :
    (markDone e.pc (e.result s.params.xlen).fault s.al = none ∧ executeOne e s = .fault .alMiss) ∨
    (∃ al, markDone e.pc (e.result s.params.xlen).fault s.al = some al ∧
      executeOne e s = .next ((s.withAl al).writeback e.destReg (e.result s.params.xlen))) := by
  cases h : markDone e.pc (e.result s.params.xlen).fault s.al with
  | none => exact .inl ⟨rfl, by simp [executeOne, h]⟩
  | some al => exact .inr ⟨al, rfl, by simp [executeOne, h]⟩

/-- Marking asks for an entry with the PC, and finds one where there is one (R202). -/
theorem markDone_eq_none_iff (pc : Nat) (f : Bool) (al : List ALEntry) :
    markDone pc f al = none ↔ ∀ a ∈ al, a.pc ≠ pc := by
  induction al with
  | nil => simp [markDone]
  | cons a rest ih =>
    simp only [markDone]
    by_cases h : a.pc = pc
    · simp [h]
    · cases hr : markDone pc f rest <;> simp_all

/-- Marking changes one entry, the oldest with the PC (R202). -/
theorem markDone_eq_some (pc : Nat) (f : Bool) (al al' : List ALEntry) (h : markDone pc f al = some al') :
    ∃ pre a post, al = pre ++ a :: post ∧ a.pc = pc ∧ (∀ b ∈ pre, b.pc ≠ pc) ∧
      al' = pre ++ { a with done := true, exc := f } :: post := by
  induction al generalizing al' with
  | nil => simp [markDone] at h
  | cons a rest ih =>
    simp only [markDone] at h
    by_cases hp : a.pc = pc
    · simp only [hp, if_true, Option.some.injEq] at h
      exact ⟨[], a, rest, rfl, hp, by simp, by simp [← h, hp]⟩
    · simp only [hp, if_false] at h
      cases hr : markDone pc f rest with
      | none => simp [hr] at h
      | some rest' =>
        simp only [hr, Option.some.injEq] at h
        obtain ⟨pre, b, post, h1, h2, h3, h4⟩ := ih _ hr
        refine ⟨a :: pre, b, post, by simp [h1], h2, ?_, by simp [← h, h4]⟩
        intro c hc
        rcases List.mem_cons.mp hc with hc | hc
        · exact hc ▸ hp
        · exact h3 c hc

/-- The register file after an entry executes (R203 to R205), field by field. -/
theorem writeback_fields (s : State) (dest : PReg) (r : AluResult) :
    let t := s.writeback dest r
    t.prf = s.prf.set dest.val r.value ∧ t.busy = (if r.fault then s.busy else s.busy.set dest.val false) ∧
      t.iq = (if r.fault then s.iq else s.iq.map (wakeEntry dest r.value)) ∧
      t.al = s.al ∧ t.rat = s.rat ∧ t.fl = s.fl ∧ t.db = s.db ∧ t.pc = s.pc ∧ t.execLatch = s.execLatch ∧
      t.exception = s.exception ∧ t.exceptionPC = s.exceptionPC ∧ t.mode = s.mode ∧ t.prog = s.prog ∧
      t.params = s.params ∧ t.trace = s.trace := by
  unfold State.writeback
  cases r.fault <;> simp

/-! ### Issue -/

/-- Issue writes the queue and the latch, nothing else (R186). -/
theorem issue_eq (s : State) :
    issue s = { s with iq := (selectReady Config.width s.iq).2, execLatch := (selectReady Config.width s.iq).1 } := rfl

/-! ### Commit -/

theorem commitLoop_nil (s : State) : commitLoop [] s = (s, false) := rfl

theorem commitLoop_fault (h : ALEntry) (rest : List ALEntry) (s : State) (he : h.exc = true) :
    commitLoop (h :: rest) s = (s.takeFault h.pc, true) := by
  simp [commitLoop, he]

theorem commitLoop_retire (h : ALEntry) (rest : List ALEntry) (s : State) (he : h.exc = false) (hd : h.done = true) :
    commitLoop (h :: rest) s = commitLoop rest ((s.withAl rest).pushFree h.oldDest) := by
  simp [commitLoop, he, hd]

theorem commitLoop_wait (h : ALEntry) (rest : List ALEntry) (s : State) (he : h.exc = false) (hd : h.done = false) :
    commitLoop (h :: rest) s = (s, false) := by
  simp [commitLoop, he, hd]

/-! ### Recovery -/

theorem squashTail_nil (n : Nat) (s : State) (h : s.al = []) : squashTail n s = s := by
  cases n <;> simp [squashTail, h]

/-- One entry squashed from the tail (R281). -/
theorem squashTail_concat (n : Nat) (s : State) (older : List ALEntry) (e : ALEntry) (h : s.al = older ++ [e]) :
    squashTail (n + 1) s = squashTail n ((s.withAl older).squash e) := by
  simp [squashTail, h]

theorem squash_observed (s : State) (e : ALEntry) (h : s.params.recoveryVariant = .observed) :
    s.squash e = s.pushFree e.oldDest := by
  simp [State.squash, h, State.squashObserved]

theorem squash_corrected (s : State) (e : ALEntry) (h : s.params.recoveryVariant = .corrected) :
    s.squash e =
      ((s.writeRat e.logDest e.oldDest).pushFree (s.mapOf e.logDest)).writeBusy (s.mapOf e.logDest) false := by
  simp [State.squash, h, State.squashCorrected]

/-! ### The cycle and the step -/

/-- A RUN cycle that answers a next state: the fault cycle cut short, or every stage run (R121, R277). -/
theorem runCycle_eq_next (s t : State) (h : runCycle s = .next t) :
    ((commit s).2 = true ∧ (commit s).1.params.faultCycleCompletes = false ∧ t = finishCycle true (commit s).1) ∨
    (((commit s).2 = false ∨ (commit s).1.params.faultCycleCompletes = true) ∧
      ∃ e d u, execute (commit s).1 = .next e ∧ dispatch (issue e) = .next d ∧ fetchDecode d = .next u ∧
        t = finishCycle (commit s).2 u) := by
  unfold runCycle at h
  rcases hc : commit s with ⟨c, f⟩
  simp only [hc] at h
  by_cases hf : (f && !c.params.faultCycleCompletes) = true
  · simp only [hf, if_true, Host.Outcome.next.injEq] at h
    simp only [Bool.and_eq_true, Bool.not_eq_true'] at hf
    exact .inl ⟨hf.1, hf.2, h.symm⟩
  · simp only [hf] at h
    right
    refine ⟨by cases f <;> simp_all, ?_⟩
    obtain ⟨u, hu, ht⟩ := (andThen_eq_next_iff _ _ _).mp h
    obtain ⟨e, he, h2⟩ := (andThen_eq_next_iff _ _ _).mp hu
    obtain ⟨d, hd, h3⟩ := (andThen_eq_next_iff _ _ _).mp h2
    exact ⟨e, d, u, he, hd, h3, by simpa using ht.symm⟩

/-- What a step can do (R121): end the run, run a cycle, or one of the three recovery steps. -/
theorem step_eq_next (s t : State) (h : step s = .next t) :
    (s.mode = .run ∧ s.drained = true ∧ t = s.withMode .done) ∨
    (s.mode = .run ∧ s.drained = false ∧ runCycle s = .next t) ∨
    (s.mode = .recover ∧ t = recoverStep s) ∨
    (s.mode = .recoverFinal ∧ t = recoverFinalStep s) ∨
    (s.mode = .recoverClear ∧ t = recoverClearStep s) := by
  unfold step at h
  cases hm : s.mode <;> simp only [hm] at h
  · unfold runStep at h
    cases hd : s.drained
    · simp only [hd] at h; exact .inr (.inl ⟨rfl, rfl, by simpa using h⟩)
    · simp only [hd, if_true, Host.Outcome.next.injEq] at h; exact .inl ⟨rfl, rfl, h.symm⟩
  · exact .inr (.inr (.inl ⟨rfl, by simpa using h.symm⟩))
  · exact .inr (.inr (.inr (.inl ⟨rfl, by simpa using h.symm⟩)))
  · exact .inr (.inr (.inr (.inr ⟨rfl, by simpa using h.symm⟩)))
  · cases h
  · cases h

/-- A step faults in a RUN cycle only (R121, R202, R297). -/
theorem step_eq_fault (s : State) (r : Fault) (h : step s = .fault r) :
    s.mode = .run ∧ s.drained = false ∧ runCycle s = .fault r := by
  unfold step at h
  cases hm : s.mode <;> simp only [hm] at h <;> try cases h
  unfold runStep at h
  cases hd : s.drained
  · simp only [hd] at h; exact ⟨rfl, rfl, by simpa using h⟩
  · simp [hd] at h

end Sys2Proof.Machine
end

