-- ==== Sys2Proof/Tests/Slice0.lean ====
section
/-! SUPPORT. The model's own tests: the checks of R97 refusing ill-formed records, words written out from the spec's encoding, the worked examples of the spec on one
step or one stage, and for each statement with hypotheses a state that meets them. Expected values come from `30_encoding.md`, `45_alu_instructions.md`, the worked examples of the
stage files and `95_test_vectors.md`. -/

namespace Sys2Proof.Tests

open Sys2Proof.Machine

/-- An outcome is a next state with the property `p`. -/
def nextHas (o : Result) (p : State → Bool) : Bool :=
  match o with
  | .next t => p t
  | _ => false

theorem exists_next_of_nextHas {o : Result} {p : State → Bool} (h : nextHas o p = true) : ∃ t, o = .next t ∧ p t = true := by
  cases o with
  | next t => exact ⟨t, rfl, h⟩
  | fault r => cases h
  | refused r => cases h

/-! ### Well-formedness: one ill-formed record for each check (`95_test_vectors.md` section 2.1) -/

theorem test_reserved_op_refused : ¬ (PackedDIR.mk 0x00000005 0).opOk := by decide
theorem test_reserved_bit_refused : ¬ (PackedDIR.mk 0x00080000 0).reservedOk := by decide
theorem test_rs2_with_immediate_refused : ¬ (PackedDIR.mk 0x00004008 0).rs2Ok := by decide
theorem test_immediate_with_register_refused : ¬ (PackedDIR.mk 0x00000000 1).immOk := by decide
theorem test_ill_formed_not_canonical : ¬ (PackedDIR.mk 5 0).canonical ∧ ¬ (PackedDIR.mk 0x80000 0).canonical ∧
    ¬ (PackedDIR.mk 0x4008 0).canonical ∧ ¬ (PackedDIR.mk 0 1).canonical := by decide
theorem test_long_program_refused : ¬ programFits (List.replicate 65537 (.packed ⟨0, 0⟩)) := by
  show ¬ (List.replicate 65537 _).length ≤ 65536
  rw [List.length_replicate]
  decide

/-- D2, D3: an `IMM` wider than `XLEN` is no record of that width, and a launch with one, or with a PC of fewer than 17 bits, is refused; an `XLEN` of 8 wraps at 256. -/
theorem test_wide_immediate_refused : ¬ (PackedDIR.mk 0x18 256).immFits 8 ∧ decodeDIR 8 ⟨0x18, 256⟩ = .error .immediateTooWide ∧
    decodeDIR 8 ⟨0x18, 255⟩ = .ok (.addi 1 0 255) := by decide
theorem test_launch_widths : (match launch { prog := [.packed ⟨0x18, 256⟩], params := { xlen := 8 } } with
    | .refused .valueOutOfWidth => true
    | _ => false) = true ∧ ¬ ({ params := { pcw := 16 } } : LaunchInput).fits ∧ ({ params := { xlen := 8, pcw := 17 } } : LaunchInput).accepted := by decide
theorem test_narrow_add_wraps : alu 8 .add 255 2 = ⟨1, false⟩ ∧ alu 8 .sub 1 2 = ⟨255, false⟩ ∧ alu 8 .mulu 16 17 = ⟨16, false⟩ := by decide

/-! ### Decoding: a word of each constructor, written out from R92 and R93 (`95_test_vectors.md` sections 2.1, 3.1, 3.2; R105) -/

theorem test_decode_add : decodeTableWord 32 0x00008230 = some (.add 3 1 2) := by decide
theorem test_decode_addi : decodeTableWord 96 0x500000648 = some (.addi 4 3 5) := by decide
theorem test_decode_addi_minus_one : decodeTableWord 96 0xFFFFFFFFFFFFFFFF00000018 = some (.addi 1 0 0xFFFFFFFFFFFFFFFF) := by decide
theorem test_decode_sub : decodeTableWord 32 0x00004C71 = some (.sub 7 6 1) := by decide
/-- `SUB_IMM` with `rd = 1`, `rs1 = 2`: `op` 001, `bimm` 1, `rd` 00001, `rs1` 00010. -/
theorem test_decode_subImm : decodeTableWord 96 (7 * 2 ^ 32 + 0b00000_00010_00001_1_001) = some (.subImm 1 2 7) := by decide
theorem test_decode_mulu : decodeTableWord 32 0x00008652 = some (.mulu 5 3 2) := by decide
theorem test_decode_muluImm : decodeTableWord 96 (5 * 2 ^ 32 + 0b00000_11111_00011_1_010) = some (.muluImm 3 31 5) := by decide
theorem test_decode_divu : decodeTableWord 32 0x00000223 = some (.divu 2 1 0) := by decide
theorem test_decode_divuImm : decodeTableWord 32 0b00000_00100_01000_1_011 = some (.divuImm 8 4 0) := by decide
theorem test_decode_remu : decodeTableWord 32 0x00008244 = some (.remu 4 1 2) := by decide
theorem test_decode_remuImm : decodeTableWord 96 (4 * 2 ^ 32 + 0b00000_01001_11110_1_100) = some (.remuImm 30 9 4) := by decide
theorem test_decode_all_x31 : decodeTableWord 32 0x0007FFF0 = some (.add 31 31 31) := by decide
theorem test_encode_scenarios : (encode (.add 3 1 2)).cw = 0x8230 ∧ (encode (.addi 4 3 5)).cw = 0x648 ∧ (encode (.divu 2 1 0)).cw = 0x223 ∧
    (encode (.add 5 1 2)).cw = 0x8250 ∧ (encode (.add 6 5 1)).cw = 0x4A60 := by decide
theorem test_reserved_words_refused : decodeTableWord 32 5 = none ∧ decodeTableWord 32 0x4008 = none ∧
    decodeTableWord 32 0x80000 = none ∧ decodeTableWord 96 0x100000000 = none := by decide
theorem test_short_bytes_refused : decodeBytes 64 [0x30, 0x82, 0, 0] = .error .truncated := by decide
/-- R96: no two rows of the opcode map overlap. -/
theorem test_opcode_rows_disjoint :
    opcodeMap.Pairwise fun a b => a.pattern &&& (a.mask &&& b.mask) ≠ b.pattern &&& (a.mask &&& b.mask) := by decide
/-- R101: the text of the first scenario. -/
theorem test_text_add : decodeText 64 ['a', 'd', 'd', ' ', 'x', '3', ',', ' ', 'x', '1', ',', ' ', 'x', '2'] = .ok (.add 3 1 2) := by decide
theorem test_text_addi_negative : decodeText 64 ['a', 'd', 'd', 'i', ' ', 'x', '1', ',', ' ', 'x', '0', ',', ' ', '-', '1'] =
    .ok (.addi 1 0 0xFFFFFFFFFFFFFFFF) := by decide
theorem test_text_refused : decodeText 64 ['n', 'o', 'p'] = .error .badForm ∧
    decodeText 64 ['a', 'd', 'd', ' ', 'x', '3', '2', ',', 'x', '1', ',', 'x', '2'] = .error .badRegister ∧
    decodeText 64 ['s', 'u', 'b', 'i', ' ', 'x', '3', ',', 'x', '1', ',', '2'] = .error .unknownMnemonic := by decide
theorem test_register_names : ∀ r : LReg, parseRegister (registerText r) = some r := by decide

/-! ### Operations (`95_test_vectors.md` section 2.2) -/

theorem test_add_wraps : alu 64 .add 0xFFFFFFFFFFFFFFFF 1 = ⟨0, false⟩ := by decide
theorem test_add_max_max : alu 64 .add 0xFFFFFFFFFFFFFFFF 0xFFFFFFFFFFFFFFFF = ⟨0xFFFFFFFFFFFFFFFE, false⟩ := by decide
theorem test_sub_wraps : alu 64 .sub 10 20 = ⟨0xFFFFFFFFFFFFFFF6, false⟩ := by decide
theorem test_mulu_wraps : alu 64 .mulu 0xFFFFFFFFFFFFFFFF 2 = ⟨0xFFFFFFFFFFFFFFFE, false⟩ := by decide
theorem test_divu_floor : alu 64 .divu 0xFFFFFFFFFFFFFFFF 2 = ⟨0x7FFFFFFFFFFFFFFF, false⟩ := by decide
theorem test_divu_zero_by_zero : alu 64 .divu 0 0 = ⟨0, true⟩ := by decide
theorem test_remu : alu 64 .remu 100 7 = ⟨2, false⟩ := by decide
theorem test_remu_by_zero_is_zero : alu 64 .remu 5 0 = ⟨0, true⟩ := by decide

/-! ### Stages: the worked examples -/

/-- The reset state with registers 1 and 2 holding 10 and 20 (the first scenario of `95_test_vectors.md`). -/
def scenario : State := (State.reset.writePrf 1 10).writePrf 2 20

/-- R171: two instructions of one batch. -/
theorem test_dispatch_r171 :
    nextHas (dispatch (scenario.withDb [⟨0, .add 3 1 2⟩, ⟨1, .addi 4 3 5⟩])) (fun t =>
      t.mapOf 3 == 32 && t.mapOf 4 == 33 && t.isBusy 32 && t.isBusy 33 && t.fl == State.reset.fl.drop 2 && t.db == [] &&
      t.al == [⟨false, false, 3, 3, 0⟩, ⟨false, false, 4, 4, 1⟩] &&
      t.iq == [⟨32, true, 0, 10, true, 0, 20, .add, 0⟩, ⟨33, false, 32, 0, true, 0, 5, .add, 1⟩]) = true := by decide

/-- `add x1, x1, x1` reads the old `x1` (`95_test_vectors.md` section 2.4). -/
theorem test_dispatch_reads_before_renaming :
    nextHas (exec (.add 1 1 1) (scenario.withDb [⟨0, .add 1 1 1⟩])) (fun t =>
      t.mapOf 1 == 32 && t.al == [⟨false, false, 1, 1, 0⟩] && t.iq == [⟨32, true, 0, 10, true, 0, 10, .add, 0⟩]) = true := by decide

/-- A stall within a batch, kept or lost (`95_test_vectors.md` section 2.4). -/
theorem test_dispatch_stalls_the_rest :
    nextHas (dispatch ((State.reset.withFl [35]).withDb [⟨38, .addi 1 1 1⟩, ⟨39, .addi 1 1 1⟩])) (fun t =>
      t.fl == [] && t.al.length == 1 && t.decodedPCs == [39]) = true := by decide

/-- The queue of R187: A is not ready, B to F are. -/
def queueR187 : List IQEntry :=
  [⟨32, false, 40, 0, true, 0, 0, .add, 0⟩, ⟨33, true, 0, 0, true, 0, 0, .add, 1⟩, ⟨34, true, 0, 0, true, 0, 0, .add, 2⟩,
   ⟨35, true, 0, 0, true, 0, 0, .add, 3⟩, ⟨36, true, 0, 0, true, 0, 0, .add, 4⟩, ⟨37, true, 0, 0, true, 0, 0, .add, 5⟩]

theorem test_issue_r187 : (issue (State.reset.withIq queueR187)).execLatch.map IQEntry.pc = [1, 2, 3, 4] ∧
    (issue (State.reset.withIq queueR187)).iq.map IQEntry.pc = [0, 5] := by decide

/-- The state of R209 before its cycle: the first scenario's ADD in the latch, its consumer waiting. -/
def beforeR209 : State :=
  ((((scenario.withFl (State.reset.fl.drop 2)).withAl [⟨false, false, 3, 3, 0⟩, ⟨false, false, 4, 4, 1⟩]).withIq
    [⟨33, false, 32, 0, true, 0, 5, .add, 1⟩]).withExecLatch [⟨32, true, 0, 10, true, 0, 20, .add, 0⟩]).writeBusy 32 true

theorem test_execute_r209 :
    nextHas (execute beforeR209) (fun t => t.prfAt 32 == 30 && !t.isBusy 32 && t.al == [⟨true, false, 3, 3, 0⟩, ⟨false, false, 4, 4, 1⟩] &&
      t.iq == [⟨33, true, 0, 30, true, 0, 5, .add, 1⟩] && t.execLatch == []) = true := by decide

/-- A faulting result (`95_test_vectors.md` section 2.6): 0 written, Busy kept, nobody woken. -/
theorem test_execute_fault :
    nextHas (execute (beforeR209.withExecLatch [⟨32, true, 0, 5, true, 0, 0, .divu, 0⟩])) (fun t =>
      t.prfAt 32 == 0 && t.isBusy 32 && t.al == [⟨true, true, 3, 3, 0⟩, ⟨false, false, 4, 4, 1⟩] && t.iq == beforeR209.iq) = true := by decide

/-- R202: without its Active List entry, the model's fault. -/
theorem test_execute_alMiss : (match execute (beforeR209.withAl []) with
    | .fault .alMiss => true
    | _ => false) = true := by decide

/-- R259. -/
theorem test_commit_r259 :
    (commit (beforeR209.withAl [⟨true, false, 3, 3, 0⟩, ⟨false, false, 4, 4, 1⟩])).1.al = [⟨false, false, 4, 4, 1⟩] ∧
    (commit (beforeR209.withAl [⟨true, false, 3, 3, 0⟩, ⟨false, false, 4, 4, 1⟩])).1.fl = State.reset.fl.drop 2 ++ [3] := by decide

/-- The fault cycle and the first recovery step of program P2 (`95_test_vectors.md` section 3.2, snapshots S6 and S7). -/
def beforeFaultP2 : State :=
  (State.reset.withFl (State.reset.fl.drop 6 ++ [1])).withAl
    [⟨true, true, 2, 2, 1⟩, ⟨true, false, 3, 3, 2⟩, ⟨false, false, 4, 4, 3⟩, ⟨true, false, 5, 5, 4⟩, ⟨true, false, 6, 6, 5⟩]

theorem test_fault_cycle_p2 :
    nextHas (step beforeFaultP2) (fun t => t.pc == 65536 && t.exception && t.exceptionPC == 1 && t.al == beforeFaultP2.al &&
      t.mode == .recover && t.trace.length == 2) = true := by decide

theorem test_recover_p2 :
    nextHas (step (beforeFaultP2.withMode .recover)) (fun t => t.fl == State.reset.fl.drop 6 ++ [1, 6, 5, 4, 3] &&
      t.al == [⟨true, true, 2, 2, 1⟩] && t.mode == .recover) = true := by decide

/-- The fetch table of R146 (`95_test_vectors.md` section 2.3): `N = 6`, `PC = 4`. -/
theorem test_fetch_two :
    nextHas (fetchDecode ((State.reset.withProg (List.replicate 6 (.packed ⟨0x218, 1⟩))).withPc 4)) (fun t =>
      t.decodedPCs == [4, 5] && t.pc == 6) = true := by decide

/-- `N = 3`, index 1 not decodable: the fatal decode error at 1. -/
theorem test_fetch_decode_error : (match fetchDecode (State.reset.withProg [.packed ⟨0x218, 1⟩, .packed ⟨5, 0⟩, .packed ⟨0x218, 1⟩]) with
    | .fault (.decodeError 1 .reservedOp) => true
    | _ => false) = true := by decide

/-- The empty program (`95_test_vectors.md` section 3.5): the first step ends the run, with the reset snapshot only. -/
theorem test_empty_program : nextHas (step State.reset) (fun t => t.mode == .done && t.trace.length == 1) = true := by decide

/-- The load of a table word: the next step runs it, as the first instruction after reset. -/
theorem test_fetch_word_runs :
    nextHas (step (State.reset.withFetchWord 32 0x8230)) (fun t => t.mapOf 3 == 32 && t.al == [⟨false, false, 3, 3, 0⟩] && t.pc == 1) = true := by decide

/-! ### Witnesses: for each statement with hypotheses, what meets them -/

/-- A state with one instruction in the decode buffer and nothing else in flight. -/
def alone (i : Instr) : State := scenario.withDb [⟨0, i⟩]

theorem witness_decoded_record : decodeDIR 64 ⟨0x8230, 0⟩ = .ok (.add 3 1 2) ∧ ⟨"ADD", 0, 0xFFF8000F⟩ ∈ opcodeMap := by decide

theorem witness_undecodable_fetch : (∀ i, decodeDIR 64 ⟨5, 0⟩ ≠ .ok i) ∧ (State.reset.withProg [.packed ⟨5, 0⟩]).db = [] ∧
    (State.reset.withProg [.packed ⟨5, 0⟩]).prog[(State.reset.withProg [.packed ⟨5, 0⟩]).pc]? = some (.packed ⟨5, 0⟩) := by
  have h : decodeDIR 64 ⟨5, 0⟩ = .error .reservedOp := by decide
  exact ⟨fun i e => (by cases h.symm.trans e), rfl, rfl⟩

/-- The literals at the ends of R103's range: 2^64 - 1, 2^64, 2^63, 2^63 + 1. -/
theorem witness_literals :
    parseDigits ['1', '8', '4', '4', '6', '7', '4', '4', '0', '7', '3', '7', '0', '9', '5', '5', '1', '6', '1', '5'] = some (2 ^ 64 - 1) ∧
    parseDigits ['1', '8', '4', '4', '6', '7', '4', '4', '0', '7', '3', '7', '0', '9', '5', '5', '1', '6', '1', '6'] = some (2 ^ 64) ∧
    parseDigits ['9', '2', '2', '3', '3', '7', '2', '0', '3', '6', '8', '5', '4', '7', '7', '5', '8', '0', '8'] = some (2 ^ 63) ∧
    parseDigits ['9', '2', '2', '3', '3', '7', '2', '0', '3', '6', '8', '5', '4', '7', '7', '5', '8', '0', '9'] = some (2 ^ 63 + 1) := by decide

/-- The longest program a launch may give, and one longer. -/
def longest (n : Nat) : LaunchInput := { prog := List.replicate n (.packed ⟨0, 0⟩) }

theorem witness_program_lengths : (longest 65536).accepted ∧ 65536 < (longest 65537).prog.length := by
  refine ⟨⟨?_, by decide, by decide, ?_⟩, ?_⟩
  · show (List.replicate 65536 _).length ≤ 65536
    rw [List.length_replicate]
  · refine List.all_eq_true.mpr fun item h => ?_
    rw [List.eq_of_mem_replicate h]; decide
  · show 65536 < (List.replicate 65537 _).length
    rw [List.length_replicate]; decide

/-- Instructions well formed at a width, at the ends of its range. -/
theorem witness_wellFormed : (Instr.addi 1 0 0xFFFFFFFFFFFFFFFF).wellFormed 64 = true ∧ (Instr.remuImm 31 31 1).wellFormed 1 = true ∧
    (Instr.add 3 1 2).wellFormed 0 = true ∧ (Instr.addi 1 0 2).wellFormed 1 = false := by decide

theorem witness_free_register (i : Instr) : (alone i).fl = 32 :: State.reset.fl.drop 1 := rfl

theorem witness_empty_free_list (i : Instr) : ((alone i).withFl []).fl = [] := rfl

/-- The hypotheses of the statements about an instruction alone in the pipeline, for every form. -/
theorem witness_alone (i : Instr) : (alone i).onlyDecoded [⟨0, i⟩] [32] (State.reset.fl.drop 1) :=
  ⟨rfl, rfl, rfl, rfl, rfl, rfl, by decide, (by decide : scenario.progLen ≤ scenario.pc), (by decide : ∀ r, scenario.isBusy (scenario.mapOf r) = false),
    (by decide : ∀ r, scenario.mapOf r ∉ [(32 : PReg)])⟩

/-- A divisor that is not 0, and one that is, in a register; and the program bound. -/
theorem witness_divisors (i : Instr) : (alone i).logical 2 ≠ 0 ∧ (alone i).logical 0 = 0 ∧ programFits (alone i).prog :=
  ⟨(by decide : scenario.logical 2 ≠ 0), (by decide : scenario.logical 0 = 0), (by decide : programFits scenario.prog)⟩

/-- The batch of the first scenario, a producer and its consumer. -/
def pair : State := scenario.withDb [⟨0, .add 3 1 2⟩, ⟨1, .addi 4 3 5⟩]

theorem witness_pair : pair.onlyDecoded [⟨0, .add 3 1 2⟩, ⟨0 + 1, .addi 4 3 5⟩] [32, 33] (State.reset.fl.drop 2) ∧
    (Instr.addi 4 3 5).rs1 = (Instr.add 3 1 2).rd ∧ (alu 64 .add (pair.logical 1) (pair.logical 2)).fault = false ∧
    (alu 64 .add 30 5).fault = false := by decide

/-- A RUN cycle with an instruction to dispatch, one to execute, and no fault. -/
def busyCycle : State := beforeR209.withDb [⟨2, .addi 5 3 1⟩]

theorem witness_cycle : busyCycle.mode = .run ∧ busyCycle.db = [⟨2, .addi 5 3 1⟩] ∧ busyCycle.drained = false ∧ (commit busyCycle).2 = false ∧
    nextHas (execute (commit busyCycle).1) (fun _ => true) = true := by decide

theorem witness_finished : (State.reset.withMode .done).mode = .done ∧ (State.reset.withMode .error).mode = .error := by decide

theorem witness_drained : State.reset.mode = .run ∧ State.reset.prog.length ≤ State.reset.pc ∧ State.reset.db = [] ∧ State.reset.al = [] := by decide

/-- Nine entries in the Active List, as in program P4. -/
def nineEntries : State :=
  beforeFaultP2.withAl (beforeFaultP2.al ++ [⟨false, false, 7, 7, 6⟩, ⟨false, false, 8, 8, 7⟩, ⟨false, false, 9, 9, 8⟩, ⟨false, false, 10, 10, 9⟩])

/-- One step of each kind answers a next state: the run's end, a cycle, the fault cycle in both settings, recovery with entries left and without, and the two closing steps. -/
theorem witness_steps : nextHas (step State.reset) (fun _ => true) = true ∧ nextHas (step busyCycle) (fun _ => true) = true ∧
    nextHas (step beforeFaultP2) (fun _ => true) = true ∧
    nextHas (step { beforeFaultP2 with params := { faultCycleCompletes := true } }) (fun _ => true) = true ∧
    nextHas (step (nineEntries.withMode .recover)) (fun t => t.mode == .recover) = true ∧
    nextHas (step ((beforeFaultP2.withAl (beforeFaultP2.al.take 4)).withMode .recover)) (fun t => t.mode == .recoverFinal) = true ∧
    nextHas (step (State.reset.withMode .recoverFinal)) (fun _ => true) = true ∧
    nextHas (step (State.reset.withMode .recoverClear)) (fun _ => true) = true := by decide

theorem witness_step_frames : programFits busyCycle.prog ∧ (∀ e ∈ busyCycle.execLatch, e.destReg ≠ 5) ∧ (∀ e ∈ busyCycle.db, e.instr.rd ≠ 6) ∧
    (∀ a ∈ ({ beforeFaultP2 with mode := .recover, params := { recoveryVariant := .corrected } } : State).al, a.logDest ≠ 7) := by decide

/-- A cycle of an ordered pipeline whose stages all answer. -/
theorem witness_ordered_cycle : State.reset.mode = .run ∧ State.reset.pipelineOrdered ∧
    nextHas (execute (commit State.reset).1) (fun e => nextHas (dispatch (issue e)) fun d => nextHas (fetchDecode d) fun _ => true) = true := by decide

theorem witness_fetch_count : (0 : Nat) = (if State.reset.pc < State.reset.prog.length then min 4 (State.reset.prog.length - State.reset.pc) else 0) ∧
    State.reset.db = [] ∧ busyCycle.db ≠ [] := by decide

/-- A program of five, of which a fetch at 0 reads four, each of which decodes; and one whose location 1 does not decode. -/
def fiveItems : State := State.reset.withProg (List.replicate 5 (.packed ⟨0x218, 1⟩))
def badSecond : State := State.reset.withProg [.packed ⟨0x218, 1⟩, .packed ⟨5, 0⟩]

theorem witness_fetch_four : fiveItems.db = [] ∧ ∀ j < 4, ∃ item i, fiveItems.prog[fiveItems.pc + j]? = some item ∧ decodeItem 64 item = .ok i := by
  refine ⟨rfl, fun j hj => ⟨.packed ⟨0x218, 1⟩, .addi 1 1 1, ?_, by decide⟩⟩
  have : ∀ j < 4, fiveItems.prog[fiveItems.pc + j]? = some (.packed ⟨0x218, 1⟩) := by decide
  exact this j hj

theorem witness_fetch_undecodable : badSecond.db = [] ∧ (∀ m < 1, ∃ x i, badSecond.prog[badSecond.pc + m]? = some x ∧ decodeItem 64 x = .ok i) ∧
    badSecond.prog[badSecond.pc + 1]? = some (.packed ⟨5, 0⟩) ∧ decodeItem 64 (.packed ⟨5, 0⟩) = .error .reservedOp := by
  refine ⟨rfl, fun m hm => ?_, rfl, by decide⟩
  have : m = 0 := by omega
  subst this
  exact ⟨.packed ⟨0x218, 1⟩, .addi 1 1 1, rfl, by decide⟩

/-- A latch of two entries with different PCs and destinations, both in the Active List; one of them faults. -/
def twoInLatch : State := (beforeR209.withIq []).withExecLatch [⟨33, true, 0, 30, true, 0, 5, .add, 1⟩, ⟨32, true, 0, 10, true, 0, 0, .remu, 0⟩]

theorem witness_latch : twoInLatch.execLatch.Perm twoInLatch.execLatch.reverse ∧ (twoInLatch.execLatch.map IQEntry.pc).Nodup ∧
    (twoInLatch.execLatch.map IQEntry.destReg).Nodup ∧ (twoInLatch.al.map ALEntry.pc).Nodup ∧ (∀ e ∈ twoInLatch.execLatch, ∃ a ∈ twoInLatch.al, a.pc = e.pc) ∧
    nextHas (execute twoInLatch) (fun _ => true) = true := by decide

/-- The statement about one executed entry, at the head of the Active List and behind another, without and with a fault. -/
theorem witness_executed_entry : beforeR209.al = [] ++ ⟨false, false, 3, 3, 0⟩ :: [⟨false, false, 4, 4, 1⟩] ∧
    twoInLatch.al = [⟨false, false, 3, 3, 0⟩] ++ ⟨false, false, 4, 4, 1⟩ :: [] ∧ (∀ b ∈ [(⟨false, false, 3, 3, 0⟩ : ALEntry)], b.pc ≠ 1) ∧
    (alu 64 .add 10 20).fault = false ∧ (alu 64 .remu 10 0).fault = true := by decide

/-- Commit's three ends: nothing left, an incomplete head, a faulting head, each behind a retiring entry. -/
theorem witness_commit : (∀ a ∈ [(⟨true, false, 3, 3, 0⟩ : ALEntry)], a.done = true ∧ a.exc = false) ∧
    (beforeR209.withAl [⟨true, false, 3, 3, 0⟩]).al = [⟨true, false, 3, 3, 0⟩] ++ [] ∧
    (beforeR209.withAl [⟨true, false, 3, 3, 0⟩, ⟨false, false, 4, 4, 1⟩]).al = [⟨true, false, 3, 3, 0⟩] ++ [⟨false, false, 4, 4, 1⟩] ∧
    (beforeR209.withAl [⟨true, false, 3, 3, 0⟩, ⟨true, true, 4, 4, 1⟩]).al = [⟨true, false, 3, 3, 0⟩] ++ ⟨true, true, 4, 4, 1⟩ :: [] := by decide

theorem witness_fault_cycle : beforeFaultP2.mode = .run ∧ (commit beforeFaultP2).2 = true ∧ beforeFaultP2.params.faultCycleCompletes = false ∧
    (commit { beforeFaultP2 with params := { faultCycleCompletes := true } }).2 = true := by decide

/-- Recovery from nine entries in either variant, and the two closing modes. -/
theorem witness_recovery : (nineEntries.withMode .recover).mode = .recover ∧ (nineEntries.withMode .recover).params.recoveryVariant = .observed ∧
    (nineEntries.withMode .recover).al ≠ [] ∧
    ({ nineEntries with mode := .recover, params := { recoveryVariant := .corrected } } : State).params.recoveryVariant = .corrected ∧
    (State.reset.withMode .recoverFinal).mode = .recoverFinal ∧ (State.reset.withMode .recoverClear).mode = .recoverClear := by decide

/-- A state in the middle of a run has the invariant: the first scenario's after its third cycle (snapshot S3). -/
def middle : State := (((beforeR209.writeRat 3 32).writeRat 4 33).writeBusy 33 true).withPc 2
def middleLoaded : State := middle.withProg [.packed ⟨0x8230, 0⟩, .packed ⟨0x648, 5⟩]

theorem witness_invariant : middleLoaded.Inv ∧ middleLoaded.mode = .run ∧ nextHas (step middleLoaded) (fun _ => true) = true ∧ middleLoaded.al ≠ [] :=
  ⟨⟨by decide, by decide, by decide, by decide, by decide, by decide, by decide⟩, rfl, by decide, by decide⟩

/-- And one with empty queues. -/
theorem witness_invariant_empty : State.reset.Inv ∧ State.reset.mode = .run ∧ State.reset.al = [] :=
  ⟨⟨by decide, by decide, by decide, by decide, by decide, by decide, by decide⟩, rfl, rfl⟩

theorem witness_all_decode : ∀ item ∈ middleLoaded.prog, ∃ i, decodeItem 64 item = .ok i := by
  intro item h
  have h' : item = .packed ⟨0x8230, 0⟩ ∨ item = .packed ⟨0x648, 5⟩ := by simpa [middleLoaded] using h
  rcases h' with h' | h' <;> subst h'
  · exact ⟨.add 3 1 2, by decide⟩
  · exact ⟨.addi 4 3 5, by decide⟩

/-- The registers of a state in recovery are partitioned: the corrected recovery's premise. -/
theorem witness_partition_in_recovery :
    ({ middleLoaded with mode := .recover, params := { recoveryVariant := .corrected } } : State).registersPartition := by decide

/-- A launch of one decodable instruction, which runs to `DONE` in six steps: fetch, dispatch, issue, execute, commit, end (R319). -/
def oneAdd : LaunchInput := { prog := [.packed ⟨0x8230, 0⟩] }

theorem witness_decodable_launch : oneAdd.accepted ∧ oneAdd.params.stallMode = .retain ∧ oneAdd.prog.map (decodeItem 64) = [Instr.add 3 1 2].map Except.ok ∧
    sequentialClean 64 (initialLogical oneAdd) [.add 3 1 2] = true ∧
    nextHas (Host.Core.run Sys2Proof.core 6 (State.launched oneAdd)) (fun t => t.mode == .done) = true := by decide

theorem witness_decodable_items : ∀ item ∈ oneAdd.prog, ∃ i, decodeItem 64 item = .ok i := by
  intro item h
  have h' : item = .packed ⟨0x8230, 0⟩ := by simpa [oneAdd] using h
  subst h'
  exact ⟨.add 3 1 2, by decide⟩

/-- A run of that launch, in RUN with its instruction in flight. -/
theorem witness_run : oneAdd.accepted ∧
    nextHas (Host.Core.run Sys2Proof.core 2 (State.launched oneAdd)) (fun t => t.mode == .run && t.al.length == 1) = true := by decide

/-- A decode buffer for the rename block: the first scenario's pair, the consumer behind the producer. -/
theorem witness_rename_block : pair.db.length ≤ 4 ∧ (renameBlock pair.renameIn).ratWrites = [(3, 32), (4, 33)] ∧
    (renameBlock pair.renameIn).iqAppends = [⟨32, true, 0, 10, true, 0, 20, .add, 0⟩, ⟨33, false, 32, 0, true, 0, 5, .add, 1⟩] := by decide

end Sys2Proof.Tests
end

/-! What the invariant says about how full the queues are: `00_scope.md` rule R11 and `70_reset_and_hazards.md` rules R320 to R322. -/

namespace Sys2Proof.Machine

section
variable {s : State}

/-- R320, counted from R321: a register the RAT does not map is free or displaced, so the two lists share the 64 registers less the RAT's 32. -/
theorem length_fl_add_length_al (hpart : s.registersPartition) : s.fl.length + s.al.length = 32 := by
  have hcount : s.fl.length + (Config.nlog + s.al.length) = Config.nphys := by simpa using hpart.length_eq
  simp only [Config.nlog, Config.nphys] at hcount
  omega

theorem length_al_le_capacity (hpart : s.registersPartition) : s.al.length ≤ Config.capacity := by
  have hcount := length_fl_add_length_al hpart
  simp only [Config.capacity]
  omega

/-- R322: what waits or is issued carries the PC of an Active List entry. -/
theorem inFlight_pcs_subset_al_pcs (hlive : s.entriesLive) (hrun : s.mode = .run) :
    (s.iq ++ s.execLatch).map IQEntry.pc ⊆ s.al.map ALEntry.pc := by
  obtain ⟨-, -, -, -, hentry, -⟩ := hlive hrun
  intro pc hpc
  obtain ⟨e, he, rfl⟩ := List.mem_map.mp hpc
  obtain ⟨a, ha, hsame, -⟩ := hentry e he
  exact List.mem_map.mpr ⟨a, ha, hsame⟩

/-- With the PCs distinct, the Issue Queue and the latch together are no longer than the Active List. -/
theorem length_inFlight_le_length_al (hlive : s.entriesLive) (hrun : s.mode = .run) :
    s.iq.length + s.execLatch.length ≤ s.al.length := by
  obtain ⟨hnodup, -⟩ := hlive hrun
  have hle := (hnodup.subperm (inFlight_pcs_subset_al_pcs hlive hrun)).length_le
  simpa using hle

end

/-- Settles O56: the partition bounds the Active List, and the Active List bounds the Issue Queue and the latch. -/
theorem queuesStayWithinCapacity : Obligations.QueuesStayWithinCapacity := by
  unfold Obligations.QueuesStayWithinCapacity
  rintro s ⟨hpart, -, hlive, -⟩ hrun
  have hal := length_al_le_capacity hpart
  have hflight := length_inFlight_le_length_al hlive hrun
  refine ⟨⟨hal, by omega⟩, fun hempty => ?_⟩
  have hzero : s.al.length = 0 := List.length_eq_zero_iff.mpr hempty
  exact ⟨List.length_eq_zero_iff.mp (by omega), List.length_eq_zero_iff.mp (by omega)⟩

end Sys2Proof.Machine

/-! What each block of the cycle writes, and what the blocks together make of the components of `10_state.md`: the mode, the fault registers, the register file, the RAT and `PC`. -/

namespace Sys2Proof.Machine

/-! ### Commit -/

/-- The loop of R256: it retires the entries at the head that may, and takes the fault when what then stands at the head faults (R251 to R254). -/
theorem commitLoop_cases (al : List ALEntry) (s : State) :
    ∃ pre post, al = pre ++ post ∧ (∀ a ∈ pre, a.done = true ∧ a.exc = false) ∧
      let t : State := { s with al := post, fl := s.fl ++ pre.map ALEntry.oldDest }
      (commitLoop al (s.withAl al) = (t, false) ∨
       ∃ h rest, post = h :: rest ∧ h.exc = true ∧ commitLoop al (s.withAl al) = (t.takeFault h.pc, true)) := by
  induction al generalizing s with
  | nil => exact ⟨[], [], rfl, by simp, .inl (by simp [commitLoop_nil, State.withAl])⟩
  | cons a rest ih =>
    cases hexc : a.exc with
    | true => exact ⟨[], a :: rest, rfl, by simp, .inr ⟨a, rest, rfl, hexc, by simp [commitLoop_fault _ _ _ hexc, State.withAl]⟩⟩
    | false =>
      cases hdone : a.done with
      | false => exact ⟨[], a :: rest, rfl, by simp, .inl (by simp [commitLoop_wait _ _ _ hexc hdone, State.withAl])⟩
      | true =>
        obtain ⟨pre, post, rfl, hpre, hcases⟩ := ih (s.pushFree a.oldDest)
        refine ⟨a :: pre, post, rfl, by simpa using ⟨⟨hdone, hexc⟩, hpre⟩, ?_⟩
        simpa [commitLoop_retire _ _ _ hexc hdone, pushFree_eq, State.withAl] using hcases

/-- `Commit()`: entries at the head retired and no fault, or also the fault of the entry behind them taken (R256). -/
theorem commit_cases (s : State) :
    ∃ pre post, s.al = pre ++ post ∧ (∀ a ∈ pre, a.done = true ∧ a.exc = false) ∧
      let t : State := { s with al := post, fl := s.fl ++ pre.map ALEntry.oldDest }
      (commit s = (t, false) ∨ ∃ h rest, post = h :: rest ∧ h.exc = true ∧ commit s = (t.takeFault h.pc, true)) :=
  commitLoop_cases s.al s

/-- Commit writes the Active List and the Free List, and the three registers of a fault it takes. -/
theorem commit_frame (s : State) :
    let c := (commit s).1
    c.db = s.db ∧ c.rat = s.rat ∧ c.prf = s.prf ∧ c.execLatch = s.execLatch ∧ c.mode = s.mode ∧ c.prog = s.prog ∧ c.params = s.params := by
  obtain ⟨pre, post, -, -, hc | ⟨h, rest, -, -, hc⟩⟩ := commit_cases s <;> simp [hc, takeFault_eq]

theorem commit_of_noFault (s : State) (h : (commit s).2 = false) :
    let c := (commit s).1
    c.pc = s.pc ∧ c.exception = s.exception ∧ c.exceptionPC = s.exceptionPC := by
  obtain ⟨pre, post, -, -, hc | ⟨h', rest, -, -, hc⟩⟩ := commit_cases s
  · simp [hc]
  · simp [hc] at h

/-- R253: the fault Commit takes is that of an entry behind entries that all retire. -/
theorem commit_of_fault (s : State) (h : (commit s).2 = true) :
    let c := (commit s).1
    c.exception = true ∧ c.pc = 65536 ∧
      ∃ pre a post, s.al = pre ++ a :: post ∧ (∀ b ∈ pre, b.done = true ∧ b.exc = false) ∧ a.exc = true ∧ c.exceptionPC = a.pc := by
  obtain ⟨pre, post, hal, hpre, hc | ⟨a, rest, rfl, hexc, hc⟩⟩ := commit_cases s
  · simp [hc] at h
  · simp only [hc, takeFault_eq, faultVector_eq, true_and]
    exact ⟨pre, a, rest, hal, hpre, hexc, rfl⟩

/-! ### Execute -/

theorem executeOne_eq_next (e : IQEntry) (s t : State) (h : executeOne e s = .next t) :
    ∃ al busy iq, t = { s with al := al, prf := s.prf.set e.destReg.val (e.result s.params.xlen).value, busy := busy, iq := iq } := by
  rcases executeOne_cases e s with ⟨-, hfault⟩ | ⟨al, -, hnext⟩
  · simp [hfault] at h
  · rw [hnext, Host.Outcome.next.injEq] at h
    subst h
    unfold State.writeback
    split
    · exact ⟨al, s.busy, s.iq, rfl⟩
    · exact ⟨al, _, _, rfl⟩

theorem executeOne_prfAt (e : IQEntry) (s t : State) (p : PReg) (h : executeOne e s = .next t) (hp : e.destReg ≠ p) : t.prfAt p = s.prfAt p := by
  obtain ⟨al, busy, iq, rfl⟩ := executeOne_eq_next e s t h
  exact (prfAt_writePrf s e.destReg p _).trans (if_neg hp.symm)

/-- The latch writes the Active List, the register file, the Busy bits and the Issue Queue (R202 to R205). -/
theorem executeLoop_frame (latch : List IQEntry) (s t : State) (h : executeLoop latch s = .next t) :
    ∃ al prf busy iq, t = { s with al := al, prf := prf, busy := busy, iq := iq } := by
  induction latch generalizing s with
  | nil => cases h; exact ⟨_, _, _, _, rfl⟩
  | cons e rest ih =>
    obtain ⟨u, hu, hrest⟩ := (andThen_eq_next_iff _ _ _).mp h
    obtain ⟨al, busy, iq, rfl⟩ := executeOne_eq_next e s u hu
    obtain ⟨al', prf', busy', iq', rfl⟩ := ih _ hrest
    exact ⟨al', prf', busy', iq', rfl⟩

theorem executeLoop_prfAt (latch : List IQEntry) (s t : State) (p : PReg) (h : executeLoop latch s = .next t)
    (hp : ∀ e ∈ latch, e.destReg ≠ p) : t.prfAt p = s.prfAt p := by
  induction latch generalizing s with
  | nil => cases h; rfl
  | cons e rest ih =>
    obtain ⟨u, hu, hrest⟩ := (andThen_eq_next_iff _ _ _).mp h
    obtain ⟨he, hps⟩ := List.forall_mem_cons.mp hp
    calc t.prfAt p = u.prfAt p := ih u hrest hps
      _ = s.prfAt p := executeOne_prfAt e s u p hu he

theorem execute_frame (s t : State) (h : execute s = .next t) :
    ∃ al prf busy iq, t = { s with al := al, prf := prf, busy := busy, iq := iq, execLatch := [] } := by
  obtain ⟨u, hu, ht⟩ := (andThen_eq_next_iff _ _ _).mp h
  obtain ⟨al, prf, busy, iq, rfl⟩ := executeLoop_frame _ s u hu
  cases ht
  exact ⟨al, prf, busy, iq, rfl⟩

theorem execute_prfAt (s t : State) (p : PReg) (h : execute s = .next t) (hp : ∀ e ∈ s.execLatch, e.destReg ≠ p) : t.prfAt p = s.prfAt p := by
  obtain ⟨u, hu, ht⟩ := (andThen_eq_next_iff _ _ _).mp h
  cases ht
  exact executeLoop_prfAt _ s u p hu hp

/-! ### Rename/Dispatch -/

theorem renameDispatch_mapOf (op : Opcode) (rd rs1 r : LReg) (src : OperandB) (s : State) (hr : rd ≠ r) :
    (renameDispatch op rd rs1 src s).mapOf r = s.mapOf r := by
  cases h : s.fl with
  | nil => rw [renameDispatch_nil _ _ _ _ _ h]
  | cons p rest =>
    rw [renameDispatch_cons _ _ _ _ _ _ _ h]
    exact (mapOf_writeRat (s.withFl rest) rd r p).trans (if_neg hr.symm)

/-- The dispatch loop leaves what no renaming and no emptying of the buffer writes (R164, R165, R168). -/
theorem dispatchLoop_frame (batch remaining : List DBEntry) (s t : State) (h : dispatchLoop batch remaining s = .next t) :
    t.prf = s.prf ∧ t.pc = s.pc ∧ t.execLatch = s.execLatch ∧ t.exception = s.exception ∧
      t.exceptionPC = s.exceptionPC ∧ t.mode = s.mode ∧ t.prog = s.prog ∧ t.params = s.params ∧ t.trace = s.trace := by
  induction batch generalizing remaining s with
  | nil => cases h; simp
  | cons e rest ih =>
    rw [dispatchLoop_cons] at h
    simpa [renameDispatch_frame] using ih _ _ h

theorem dispatchLoop_mapOf (batch remaining : List DBEntry) (s t : State) (r : LReg) (h : dispatchLoop batch remaining s = .next t)
    (hr : ∀ e ∈ batch, e.instr.rd ≠ r) : t.mapOf r = s.mapOf r := by
  induction batch generalizing remaining s with
  | nil => cases h; rfl
  | cons e rest ih =>
    rw [dispatchLoop_cons] at h
    obtain ⟨he, hrs⟩ := List.forall_mem_cons.mp hr
    exact (ih _ _ h hrs).trans (renameDispatch_mapOf _ _ _ r _ _ he)

/-! ### Fetch/Decode -/

/-- R141: a fetch asks for no location at `N` or above. -/
theorem pc_add_fetchCount_le (pc n : Nat) (h : fetchCount pc n ≠ 0) : pc + fetchCount pc n ≤ n := by
  by_cases hlt : pc < n
  · rw [fetchCount, if_pos hlt]
    omega
  · exact absurd (if_neg hlt) h

theorem fetchCount_le_width (pc n : Nat) : fetchCount pc n ≤ Config.width := by
  unfold fetchCount
  split <;> simp

/-- Every location asked for gives an entry when all lie within the program and decode. -/
theorem fetchFrom_length (xlen : Nat) (prog : List ProgItem) (k i : Nat) (entries : List DBEntry) (h : fetchFrom xlen prog k i = .ok entries)
    (hin : i + k ≤ prog.length) : entries.length = k := by
  induction k generalizing i entries with
  | zero => cases h; rfl
  | succ k ih =>
    simp only [fetchFrom] at h
    split at h
    next hnone =>
      have := (memory_read_eq_none_iff prog i).mp hnone
      omega
    next =>
      split at h
      next => cases h
      next =>
        split at h
        next => cases h
        next rest hrest =>
          cases h
          simpa using ih (i + 1) rest hrest (by omega)

theorem fetchDecode_frame (s t : State) (h : fetchDecode s = .next t) : ∃ db pc, t = { s with db := db, pc := pc } := by
  rcases fetchDecode_cases s with ⟨-, hs⟩ | ⟨-, entries, -, hs⟩ | ⟨-, r, -, hs⟩ <;> rw [hs] at h <;> cases h
  · exact ⟨_, _, rfl⟩
  · exact ⟨_, _, rfl⟩

/-- `PC` moves forward by the number fetched (R142, R145). -/
theorem fetchDecode_pc (s t : State) (h : fetchDecode s = .next t) :
    ∃ k, k ≤ 4 ∧ t.pc = s.pc + k ∧ (k ≠ 0 → t.db.length = k ∧ t.pc ≤ s.prog.length) := by
  rcases fetchDecode_cases s with ⟨-, hs⟩ | ⟨-, entries, hentries, hs⟩ | ⟨-, r, -, hs⟩ <;> rw [hs] at h <;> cases h
  · exact ⟨0, by simp⟩
  · refine ⟨fetchCount s.pc s.progLen, fetchCount_le_width _ _, rfl, fun hk => ?_⟩
    have hin := pc_add_fetchCount_le _ _ hk
    exact ⟨fetchFrom_length _ _ _ _ _ hentries hin, hin⟩

/-! ### The stages after Commit -/

theorem laterStages_eq_next (s u : State) (h : laterStages s = .next u) :
    ∃ e d, execute s = .next e ∧ dispatch (issue e) = .next d ∧ fetchDecode d = .next u := by
  obtain ⟨e, he, h'⟩ := (andThen_eq_next_iff _ _ _).mp h
  obtain ⟨d, hd, hu⟩ := (andThen_eq_next_iff _ _ _).mp h'
  exact ⟨e, d, he, hd, hu⟩

section
variable {s u : State}

theorem laterStages_frame (h : laterStages s = .next u) :
    u.exception = s.exception ∧ u.exceptionPC = s.exceptionPC ∧ u.mode = s.mode ∧ u.prog = s.prog ∧ u.params = s.params ∧ u.trace = s.trace := by
  obtain ⟨e, d, he, hd, hu⟩ := laterStages_eq_next s u h
  obtain ⟨al, prf, busy, iq, rfl⟩ := execute_frame s e he
  obtain ⟨-, -, -, hframe⟩ := dispatchLoop_frame _ _ _ d hd
  obtain ⟨db, pc, rfl⟩ := fetchDecode_frame d u hu
  exact hframe

theorem laterStages_prfAt (h : laterStages s = .next u) (p : PReg) (hp : ∀ e ∈ s.execLatch, e.destReg ≠ p) : u.prfAt p = s.prfAt p := by
  obtain ⟨e, d, he, hd, hu⟩ := laterStages_eq_next s u h
  obtain ⟨hprf, -⟩ := dispatchLoop_frame _ _ _ d hd
  obtain ⟨db, pc, rfl⟩ := fetchDecode_frame d u hu
  exact (prfAt_congr e _ hprf p).trans (execute_prfAt s e p he hp)

theorem laterStages_mapOf (h : laterStages s = .next u) (r : LReg) (hr : ∀ e ∈ s.db, e.instr.rd ≠ r) : u.mapOf r = s.mapOf r := by
  obtain ⟨e, d, he, hd, hu⟩ := laterStages_eq_next s u h
  obtain ⟨al, prf, busy, iq, rfl⟩ := execute_frame s e he
  obtain ⟨db, pc, rfl⟩ := fetchDecode_frame d u hu
  have hmap := dispatchLoop_mapOf _ _ _ d r hd hr
  exact hmap

theorem laterStages_pc (h : laterStages s = .next u) :
    ∃ k, k ≤ 4 ∧ u.pc = s.pc + k ∧ (k ≠ 0 → u.db.length = k ∧ u.pc ≤ s.prog.length) := by
  obtain ⟨e, d, he, hd, hu⟩ := laterStages_eq_next s u h
  obtain ⟨al, prf, busy, iq, rfl⟩ := execute_frame s e he
  obtain ⟨-, hpc, -, -, -, -, hprog, -⟩ := dispatchLoop_frame _ _ _ d hd
  rw [issue_eq] at hpc hprog
  simpa [hpc, hprog] using fetchDecode_pc d u hu

end

/-! ### The RUN cycle -/

/-- The end of a cycle writes the trace and the mode. -/
theorem finishCycle_eq (fault : Bool) (u : State) :
    finishCycle fault u = { u with trace := u.trace ++ [u.snapshot], mode := if fault then .recover else u.mode } := by
  cases fault <;> rfl

/-- A RUN cycle ends on what Commit left of a fault cycle cut short, or on what the later stages left (R121, R277). -/
theorem runCycle_cases (s t : State) (h : runCycle s = .next t) :
    ∃ u, t = finishCycle (commit s).2 u ∧ (((commit s).2 = true ∧ u = (commit s).1) ∨ laterStages (commit s).1 = .next u) := by
  rcases runCycle_eq_next s t h with ⟨hfault, -, ht⟩ | ⟨-, e, d, u, he, hd, hu, ht⟩
  · exact ⟨_, by rw [hfault, ht], .inl ⟨hfault, rfl⟩⟩
  · exact ⟨u, ht, .inr (by simp [laterStages, he, hd, hu])⟩

section
variable {s t : State}

theorem runCycle_mode (h : runCycle s = .next t) : t.mode = if (commit s).2 then .recover else s.mode := by
  obtain ⟨-, -, -, -, hmode, -⟩ := commit_frame s
  obtain ⟨u, rfl, ⟨-, rfl⟩ | hlater⟩ := runCycle_cases s t h
  · simp [finishCycle_eq, hmode]
  · obtain ⟨-, -, hmode', -⟩ := laterStages_frame hlater
    simp [finishCycle_eq, hmode', hmode]

theorem runCycle_faultRegisters (h : runCycle s = .next t) :
    t.exception = (commit s).1.exception ∧ t.exceptionPC = (commit s).1.exceptionPC := by
  obtain ⟨u, rfl, ⟨-, rfl⟩ | hlater⟩ := runCycle_cases s t h
  · simp [finishCycle_eq]
  · obtain ⟨hexc, hepc, -⟩ := laterStages_frame hlater
    simp [finishCycle_eq, hexc, hepc]

theorem runCycle_prfAt (h : runCycle s = .next t) (p : PReg) (hp : ∀ e ∈ s.execLatch, e.destReg ≠ p) : t.prfAt p = s.prfAt p := by
  obtain ⟨-, -, hprf, hlatch, -⟩ := commit_frame s
  have hcommit := prfAt_congr s (commit s).1 hprf p
  obtain ⟨u, rfl, ⟨-, rfl⟩ | hlater⟩ := runCycle_cases s t h
  · rw [finishCycle_eq]; exact hcommit
  · rw [finishCycle_eq]; exact (laterStages_prfAt hlater p (hlatch ▸ hp)).trans hcommit

theorem runCycle_mapOf (h : runCycle s = .next t) (r : LReg) (hr : ∀ e ∈ s.db, e.instr.rd ≠ r) : t.mapOf r = s.mapOf r := by
  obtain ⟨hdb, hrat, -⟩ := commit_frame s
  have hcommit := mapOf_congr s (commit s).1 hrat r
  obtain ⟨u, rfl, ⟨-, rfl⟩ | hlater⟩ := runCycle_cases s t h
  · rw [finishCycle_eq]; exact hcommit
  · rw [finishCycle_eq]; exact (laterStages_mapOf hlater r (hdb ▸ hr)).trans hcommit

theorem runCycle_pc_of_noFault (h : runCycle s = .next t) (hfault : (commit s).2 = false) :
    ∃ k, k ≤ 4 ∧ t.pc = s.pc + k ∧ (k ≠ 0 → t.db.length = k ∧ t.pc ≤ s.prog.length) := by
  obtain ⟨-, -, -, -, -, hprog, -⟩ := commit_frame s
  obtain ⟨hpc, -⟩ := commit_of_noFault s hfault
  obtain ⟨u, rfl, ⟨htrue, -⟩ | hlater⟩ := runCycle_cases s t h
  · simp [hfault] at htrue
  · simpa [finishCycle_eq, hpc, hprog] using laterStages_pc hlater

/-- From the vector, at or past the end of every program, nothing is fetched (R72, R141), so the redirect stands even when the fault cycle completes. -/
theorem runCycle_pc_of_fault (h : runCycle s = .next t) (hfault : (commit s).2 = true) (hfits : programFits s.prog) : t.pc = 65536 := by
  obtain ⟨-, -, -, -, -, hprog, -⟩ := commit_frame s
  obtain ⟨-, hpc, -⟩ := commit_of_fault s hfault
  obtain ⟨u, rfl, ⟨-, rfl⟩ | hlater⟩ := runCycle_cases s t h
  · simp [finishCycle_eq, hpc]
  · obtain ⟨k, -, hu, hk⟩ := laterStages_pc hlater
    have hlen : s.prog.length ≤ 65536 := hfits
    have hu' : u.pc = 65536 := by
      rw [hprog] at hk
      omega
    simp [finishCycle_eq, hu']

end

/-! ### Recovery -/

/-- Either squash writes the RAT, the Busy bits and the Free List (R282, R285). -/
theorem squash_frame (s : State) (e : ALEntry) : ∃ rat busy fl, s.squash e = { s with rat := rat, busy := busy, fl := fl } := by
  unfold State.squash
  split
  · exact ⟨s.rat, s.busy, _, rfl⟩
  · exact ⟨_, _, _, rfl⟩

theorem squash_mapOf (s : State) (e : ALEntry) (r : LReg) (h : s.params.recoveryVariant = .corrected → e.logDest ≠ r) :
    (s.squash e).mapOf r = s.mapOf r := by
  cases hv : s.params.recoveryVariant with
  | observed => rw [squash_observed s e hv]; rfl
  | corrected =>
    rw [squash_corrected s e hv]
    exact (mapOf_writeRat s e.logDest r e.oldDest).trans (if_neg (h hv).symm)

theorem squashTail_frame (n : Nat) (s : State) : ∃ rat busy fl al, squashTail n s = { s with rat := rat, busy := busy, fl := fl, al := al } := by
  induction n generalizing s with
  | zero => exact ⟨_, _, _, _, rfl⟩
  | succ n ih =>
    rcases List.eq_nil_or_concat' s.al with hnil | ⟨older, e, hal⟩
    · rw [squashTail_nil _ _ hnil]; exact ⟨_, _, _, _, rfl⟩
    · rw [squashTail_concat _ _ _ _ hal]
      obtain ⟨rat, busy, fl, hsq⟩ := squash_frame (s.withAl older) e
      rw [hsq]
      exact ih _

/-- `n` entries leave the tail, or all there are (R281). -/
theorem squashTail_al (n : Nat) (s : State) : (squashTail n s).al = s.al.take (s.al.length - n) := by
  induction n generalizing s with
  | zero => simp [squashTail]
  | succ n ih =>
    rcases List.eq_nil_or_concat' s.al with hnil | ⟨older, e, hal⟩
    · simp [squashTail_nil _ _ hnil, hnil]
    · obtain ⟨rat, busy, fl, hsq⟩ := squash_frame (s.withAl older) e
      have hlen : older.length + 1 - (n + 1) = older.length - n := by omega
      rw [squashTail_concat _ _ _ _ hal, ih, hsq, hal]
      simp [hlen, List.take_append_of_le_length]

theorem squashTail_mapOf (n : Nat) (s : State) (r : LReg) (h : s.params.recoveryVariant = .corrected → ∀ a ∈ s.al, a.logDest ≠ r) :
    (squashTail n s).mapOf r = s.mapOf r := by
  induction n generalizing s with
  | zero => rfl
  | succ n ih =>
    rcases List.eq_nil_or_concat' s.al with hnil | ⟨older, e, hal⟩
    · rw [squashTail_nil _ _ hnil]
    · rw [hal] at h
      obtain ⟨rat, busy, fl, hsq⟩ := squash_frame (s.withAl older) e
      have holder : ((s.withAl older).squash e).params.recoveryVariant = .corrected →
          ∀ a ∈ ((s.withAl older).squash e).al, a.logDest ≠ r := by
        rw [hsq]
        exact fun hv a ha => h hv a (List.mem_append_left _ ha)
      have he : (s.withAl older).params.recoveryVariant = .corrected → e.logDest ≠ r := fun hv => h hv e (by simp)
      rw [squashTail_concat _ _ _ _ hal]
      exact (ih _ holder).trans (squash_mapOf _ e r he)

/-- A RECOVER step is the squash, with the Issue Queue empty, a snapshot, and the next mode (R281). -/
theorem recoverStep_eq (s : State) :
    let t := squashTail 4 (s.withIq [])
    recoverStep s = { t with trace := t.trace ++ [t.snapshot], mode := if t.al.isEmpty then .recoverFinal else t.mode } := by
  intro t
  change (if t.emit.al.isEmpty then t.emit.withMode .recoverFinal else t.emit) = _
  rw [emit_eq]
  cases t.al.isEmpty <;> rfl

/-- A RECOVER step leaves `PC`, the decode buffer, the register file, the latch and the fault registers (R283). -/
theorem recoverStep_frame (s : State) :
    let t := recoverStep s
    t.pc = s.pc ∧ t.db = s.db ∧ t.prf = s.prf ∧ t.execLatch = s.execLatch ∧ t.exception = s.exception ∧ t.exceptionPC = s.exceptionPC ∧
      t.prog = s.prog ∧ t.params = s.params := by
  obtain ⟨rat, busy, fl, al, hsq⟩ := squashTail_frame 4 (s.withIq [])
  simp [recoverStep_eq, hsq]

theorem recoverStep_mode (s : State) : (recoverStep s).mode = if s.al.length ≤ 4 then .recoverFinal else s.mode := by
  obtain ⟨rat, busy, fl, al, hsq⟩ := squashTail_frame 4 (s.withIq [])
  have hmode : (squashTail 4 (s.withIq [])).mode = s.mode := by rw [hsq]; rfl
  have hempty : (squashTail 4 (s.withIq [])).al.isEmpty = true ↔ s.al.length ≤ 4 := by
    rw [squashTail_al, List.isEmpty_iff_length_eq_zero, List.length_take, withIq_al]
    omega
  simp [recoverStep_eq, hmode, hempty]

theorem recoverStep_mapOf (s : State) (r : LReg) (h : s.params.recoveryVariant = .corrected → ∀ a ∈ s.al, a.logDest ≠ r) :
    (recoverStep s).mapOf r = s.mapOf r := by
  rw [recoverStep_eq]
  exact squashTail_mapOf 4 (s.withIq []) r h

theorem recoverFinalStep_eq (s : State) : recoverFinalStep s = { s with trace := s.trace ++ [s.snapshot], mode := .recoverClear } := rfl

theorem recoverClearStep_eq (s : State) :
    recoverClearStep s = { s with exception := false, trace := s.trace ++ [s.clearFault.snapshot], mode := .done } := rfl

/-! ### The components of the state over a step -/

/-- Settles O26: each kind of step sets the mode as its own lemma says. -/
theorem modeFollowsTheRun : Obligations.ModeFollowsTheRun := by
  unfold Obligations.ModeFollowsTheRun
  intro s t h
  rcases step_eq_next s t h with ⟨hm, hd, rfl⟩ | ⟨hm, hd, hc⟩ | ⟨hm, rfl⟩ | ⟨hm, rfl⟩ | ⟨hm, rfl⟩
  · exact .inl ⟨hm, by simp [hd]⟩
  · exact .inl ⟨hm, by simp [hd, runCycle_mode hc, hm]⟩
  · exact .inr (.inl ⟨hm, by rw [recoverStep_mode, hm]⟩)
  · exact .inr (.inr (.inl ⟨hm, rfl⟩))
  · exact .inr (.inr (.inr ⟨hm, rfl⟩))

/-- Settles O29: in RUN the fault registers are those Commit leaves; of the recovery steps the last alone writes one. -/
theorem faultRegistersHaveTwoWriters : Obligations.FaultRegistersHaveTwoWriters := by
  unfold Obligations.FaultRegistersHaveTwoWriters
  intro s t hfits h
  rcases step_eq_next s t h with ⟨-, -, rfl⟩ | ⟨hm, -, hc⟩ | ⟨-, rfl⟩ | ⟨-, rfl⟩ | ⟨hm, rfl⟩
  · exact .inr (.inr ⟨rfl, rfl⟩)
  · obtain ⟨hexc, hepc⟩ := runCycle_faultRegisters hc
    cases hf : (commit s).2 with
    | false =>
      obtain ⟨-, hexc', hepc'⟩ := commit_of_noFault s hf
      exact .inr (.inr ⟨hexc.trans hexc', hepc.trans hepc'⟩)
    | true =>
      obtain ⟨hset, -, pre, a, post, hal, hpre, hfaulting, hsaved⟩ := commit_of_fault s hf
      exact .inl ⟨hm, by simp [runCycle_mode hc, hf], hexc.trans hset, runCycle_pc_of_fault hc hf hfits,
        pre, a, post, hal, hpre, hfaulting, hepc.trans hsaved⟩
  · obtain ⟨-, -, -, -, hexc, hepc, -⟩ := recoverStep_frame s
    exact .inr (.inr ⟨hexc, hepc⟩)
  · exact .inr (.inr ⟨rfl, rfl⟩)
  · exact .inr (.inl ⟨hm, rfl, rfl⟩)

/-- Settles O30: of a RUN cycle's stages Execute alone writes the register file, and no recovery step does. -/
theorem registerFileWrittenByExecuteOnly : Obligations.RegisterFileWrittenByExecuteOnly := by
  unfold Obligations.RegisterFileWrittenByExecuteOnly
  intro s t p h hp
  rcases step_eq_next s t h with ⟨-, -, rfl⟩ | ⟨hm, -, hc⟩ | ⟨-, rfl⟩ | ⟨-, rfl⟩ | ⟨-, rfl⟩
  · rfl
  · exact runCycle_prfAt hc p (hp hm)
  · obtain ⟨-, -, hprf, -⟩ := recoverStep_frame s
    exact prfAt_congr s _ hprf p
  · rfl
  · rfl

/-- Settles O31: of a RUN cycle's stages Dispatch alone writes the RAT, of the recovery steps the corrected squash. -/
theorem mappingWrittenByRenamingOnly : Obligations.MappingWrittenByRenamingOnly := by
  unfold Obligations.MappingWrittenByRenamingOnly
  intro s t r h hrun hrecover
  rcases step_eq_next s t h with ⟨-, -, rfl⟩ | ⟨hm, -, hc⟩ | ⟨hm, rfl⟩ | ⟨-, rfl⟩ | ⟨-, rfl⟩
  · rfl
  · exact runCycle_mapOf hc r (hrun hm)
  · exact recoverStep_mapOf s r (hrecover hm)
  · rfl
  · rfl

/-- Settles O32: without a fault the cycle's fetch moves `PC`; with one the redirect stands; every other step leaves it. -/
theorem pcAdvancesOrTakesTheVector : Obligations.PcAdvancesOrTakesTheVector := by
  unfold Obligations.PcAdvancesOrTakesTheVector
  intro s t hfits h
  rcases step_eq_next s t h with ⟨-, -, rfl⟩ | ⟨hm, -, hc⟩ | ⟨-, rfl⟩ | ⟨-, rfl⟩ | ⟨-, rfl⟩
  · exact .inl ⟨0, by simp⟩
  · cases hf : (commit s).2 with
    | false =>
      obtain ⟨k, hk, hpc, hfetched⟩ := runCycle_pc_of_noFault hc hf
      exact .inl ⟨k, hk, hpc, fun hne => ⟨hm, hfetched hne⟩⟩
    | true => exact .inr ⟨hm, rfl, by simp [runCycle_mode hc, hf], runCycle_pc_of_fault hc hf hfits⟩
  · obtain ⟨hpc, -⟩ := recoverStep_frame s
    exact .inl ⟨0, by simp [hpc]⟩
  · exact .inl ⟨0, by simp [recoverFinalStep_eq]⟩
  · exact .inl ⟨0, by simp [recoverClearStep_eq]⟩

end Sys2Proof.Machine

/-! What a launch gives and no step writes: the program (R80) and the parameters (R130, R313). -/

namespace Sys2Proof.Machine

/-- In RUN the launch inputs go through Commit and through the later stages unchanged, whether or not a fault cuts the cycle short (R121, R277). -/
theorem runCycle_launchInputs {s t : State} (h : runCycle s = .next t) : t.prog = s.prog ∧ t.params = s.params := by
  obtain ⟨-, -, -, -, -, hprog, hparams⟩ := commit_frame s
  obtain ⟨u, rfl, ⟨-, rfl⟩ | hlater⟩ := runCycle_cases s t h
  · simp [finishCycle_eq, hprog, hparams]
  · obtain ⟨-, -, -, hprog', hparams', -⟩ := laterStages_frame hlater
    simp [finishCycle_eq, hprog', hparams', hprog, hparams]

/-- Settles O27: no stage of a RUN cycle writes the launch inputs, and no recovery step or end of the run does. -/
theorem launchInputsStayFixed : Obligations.LaunchInputsStayFixed := by
  unfold Obligations.LaunchInputsStayFixed
  intro s t h
  rcases step_eq_next s t h with ⟨-, -, rfl⟩ | ⟨-, -, hc⟩ | ⟨-, rfl⟩ | ⟨-, rfl⟩ | ⟨-, rfl⟩
  · exact ⟨rfl, rfl⟩
  · exact runCycle_launchInputs hc
  · obtain ⟨-, -, -, -, -, -, hprog, hparams⟩ := recoverStep_frame s
    exact ⟨hprog, hparams⟩
  · exact ⟨rfl, rfl⟩
  · exact ⟨rfl, rfl⟩

end Sys2Proof.Machine

/-! The packed record as data: an instruction is its operation, its registers and its second operand (R90), decoding a record undoes encoding
the instruction and the other way round (`30_encoding.md` rules R92 to R97), and the opcode map's rows tell the forms apart (R96). -/

namespace Sys2Proof

/-! ### An instruction from its fields -/

/-- The instruction with the given operation, destination, source 1 and second operand (R90). -/
def Instr.ofFields : Opcode → LReg → LReg → OperandB → Instr
  | .add, rd, rs1, .reg rs2 => .add rd rs1 rs2
  | .add, rd, rs1, .imm v => .addi rd rs1 v
  | .sub, rd, rs1, .reg rs2 => .sub rd rs1 rs2
  | .sub, rd, rs1, .imm v => .subImm rd rs1 v
  | .mulu, rd, rs1, .reg rs2 => .mulu rd rs1 rs2
  | .mulu, rd, rs1, .imm v => .muluImm rd rs1 v
  | .divu, rd, rs1, .reg rs2 => .divu rd rs1 rs2
  | .divu, rd, rs1, .imm v => .divuImm rd rs1 v
  | .remu, rd, rs1, .reg rs2 => .remu rd rs1 rs2
  | .remu, rd, rs1, .imm v => .remuImm rd rs1 v

section
variable (op : Opcode) (rd rs1 : LReg) (src : OperandB)

@[simp] theorem Instr.op_ofFields : (Instr.ofFields op rd rs1 src).op = op := by
  cases op <;> cases src <;> rfl

@[simp] theorem Instr.rd_ofFields : (Instr.ofFields op rd rs1 src).rd = rd := by
  cases op <;> cases src <;> rfl

@[simp] theorem Instr.rs1_ofFields : (Instr.ofFields op rd rs1 src).rs1 = rs1 := by
  cases op <;> cases src <;> rfl

@[simp] theorem Instr.srcB_ofFields : (Instr.ofFields op rd rs1 src).srcB = src := by
  cases op <;> cases src <;> rfl

end

/-- An instruction has no data beside its fields. -/
theorem Instr.ofFields_eta (i : Instr) : Instr.ofFields i.op i.rd i.rs1 i.srcB = i := by
  cases i <;> rfl

/-- The register form of an operation's own bits is that operation's (R93, R96). -/
theorem registerForm_opBits (op : Opcode) (rd rs1 rs2 : LReg) :
    registerForm (opBits op) rd rs1 rs2 = .ok (Instr.ofFields op rd rs1 (.reg rs2)) := by
  cases op <;> rfl

/-- The immediate form of an operation's own bits is that operation's (R93, R96). -/
theorem immediateForm_opBits (op : Opcode) (rd rs1 : LReg) (v : Nat) :
    immediateForm (opBits op) rd rs1 v = .ok (Instr.ofFields op rd rs1 (.imm v)) := by
  cases op <;> rfl

/-- The register form of an operation's bits names the operation, so no two operations share their bits. -/
theorem opBits_injective : Function.Injective opBits := by
  intro a b h
  have hforms := registerForm_opBits a 0 0 0
  rw [h, registerForm_opBits b 0 0 0] at hforms
  simpa using congrArg Instr.op (Except.ok.inj hforms).symm

/-- R93: `op` is at most 4 exactly when it is the bits of an operation. -/
theorem toNat_le_four_iff_opBits (b : BitVec 3) : b.toNat ≤ 4 ↔ ∃ op, opBits op = b := by
  constructor
  · intro h
    have hb : b = 0 ∨ b = 1 ∨ b = 2 ∨ b = 3 ∨ b = 4 := by bv_omega
    rcases hb with rfl | rfl | rfl | rfl | rfl
    exacts [⟨.add, rfl⟩, ⟨.sub, rfl⟩, ⟨.mulu, rfl⟩, ⟨.divu, rfl⟩, ⟨.remu, rfl⟩]
  · rintro ⟨op, rfl⟩
    cases op <;> decide

/-- A reserved `op` has no register form. -/
theorem registerForm_reserved (b : BitVec 3) (rd rs1 rs2 : LReg) (h : ¬ b.toNat ≤ 4) :
    registerForm b rd rs1 rs2 = .error .reservedOp := by
  unfold registerForm
  split
  case h_6 => rfl
  all_goals omega

/-- A reserved `op` has no immediate form. -/
theorem immediateForm_reserved (b : BitVec 3) (rd rs1 : LReg) (v : Nat) (h : ¬ b.toNat ≤ 4) :
    immediateForm b rd rs1 v = .error .reservedOp := by
  unfold immediateForm
  split
  case h_6 => rfl
  all_goals omega

/-! ### The fields of a record -/

@[simp] theorem fieldOfLReg_lregOfField (b : BitVec 5) : fieldOfLReg (lregOfField b) = b := by
  simp [fieldOfLReg, lregOfField]

/-- The `bimm` bit of a second operand (R92). -/
def OperandB.bimm : OperandB → BitVec 1
  | .reg _ => 0
  | .imm _ => 1

/-- `CW[18:14]` of a second operand (R92, R97). -/
def OperandB.rs2Bits : OperandB → BitVec 5
  | .reg r => fieldOfLReg r
  | .imm _ => 0

/-- `IMM` of a second operand (R92, R97). -/
def OperandB.immWord : OperandB → Nat
  | .reg _ => 0
  | .imm v => v

/-- The encoder, the same for both kinds of second operand (R92). -/
theorem encode_eq (i : Instr) :
    encode i = ⟨controlWord (opBits i.op) i.srcB.bimm (fieldOfLReg i.rd) (fieldOfLReg i.rs1) i.srcB.rs2Bits, i.srcB.immWord⟩ := by
  unfold encode
  cases i.srcB <;> rfl

/-- R95: the width holds an instruction's immediate exactly when it holds its record's `IMM`. -/
theorem wellFormed_iff (xlen : Nat) (i : Instr) : i.wellFormed xlen = true ↔ (encode i).imm < 2 ^ xlen := by
  rw [encode_eq]
  cases h : i.srcB <;> simp [Instr.wellFormed, OperandB.immWord, h]

/-- R92: a control word with no reserved bit is the word of its fields. -/
theorem controlWord_of_fields (d : PackedDIR) (h : d.reservedField = 0) :
    controlWord d.opField d.bimmField d.rdField d.rs1Field d.rs2Field = d.cw := by
  refine BitVec.eq_of_getLsbD_eq fun k hk => ?_
  have hreserved : 19 ≤ k → d.cw.getLsbD k = false := fun hk19 => by
    have hbit := congrArg (fun b => b.getLsbD (k - 19)) h
    simpa [PackedDIR.reservedField, show k - 19 < 13 by omega, show 19 + (k - 19) = k by omega] using hbit
  rw [controlWord_getLsbD]
  simp only [PackedDIR.opField, PackedDIR.bimmField, PackedDIR.rdField, PackedDIR.rs1Field, PackedDIR.rs2Field, BitVec.getLsbD_extractLsb']
  split_ifs with h3 h4 h9 h14 h19
  · simp [h3]
  · simp [show k - 3 < 1 by omega, show 3 + (k - 3) = k by omega]
  · simp [show k - 4 < 5 by omega, show 4 + (k - 4) = k by omega]
  · simp [show k - 9 < 5 by omega, show 9 + (k - 9) = k by omega]
  · simp [show k - 14 < 5 by omega, show 14 + (k - 14) = k by omega]
  · exact (hreserved (by omega)).symm

/-! ### Decoding and encoding -/

theorem encode_canonical (i : Instr) : (encode i).canonical := by
  unfold encode
  cases i.srcB with
  | reg rs2 => exact Laws.registerRecord_canonical i.rd i.rs1 rs2 i.op
  | imm v => exact Laws.immediateRecord_canonical i.rd i.rs1 v i.op

/-- The fields of an instruction's record read back as the instruction (R92, R93). -/
theorem decodeFields_encode (i : Instr) : decodeFields (encode i) = .ok i := by
  have heta := Instr.ofFields_eta i
  rw [encode_eq]
  cases hsrc : i.srcB with
  | reg rs2 => simpa [decodeFields, OperandB.bimm, OperandB.rs2Bits, OperandB.immWord, registerForm_opBits, hsrc] using heta
  | imm v => simpa [decodeFields, OperandB.bimm, OperandB.rs2Bits, OperandB.immWord, immediateForm_opBits, hsrc] using heta

/-- R97: a record that is not canonical has no instruction. -/
theorem canonical_of_decodeFields (d : PackedDIR) (i : Instr) (h : decodeFields d = .ok i) : d.canonical := by
  have hop : d.opOk := by
    by_contra hreserved
    simp only [decodeFields, registerForm_reserved _ _ _ _ hreserved, immediateForm_reserved _ _ _ _ hreserved] at h
    split_ifs at h
  unfold decodeFields at h
  split_ifs at h with hreserved hbimm hrs2 himm
  · exact ⟨hop, not_not.mp hreserved, fun _ => not_not.mp hrs2, fun hzero => absurd (hbimm.symm.trans hzero) (by decide)⟩
  · exact ⟨hop, not_not.mp hreserved, fun hone => absurd hone hbimm, fun _ => not_not.mp himm⟩

/-- R97: a canonical record is the encoding of an instruction. -/
theorem exists_encode_eq_of_canonical (d : PackedDIR) (h : d.canonical) : ∃ i, encode i = d := by
  obtain ⟨hop, hreserved, hrs2, himm⟩ := h
  obtain ⟨op, hop⟩ := (toNat_le_four_iff_opBits d.opField).mp hop
  have hword := controlWord_of_fields d hreserved
  have hbimm : d.bimmField = 0 ∨ d.bimmField = 1 := by bv_omega
  rcases hbimm with hb | hb
  · refine ⟨Instr.ofFields op (lregOfField d.rdField) (lregOfField d.rs1Field) (.reg (lregOfField d.rs2Field)), ?_⟩
    rw [hb, ← hop] at hword
    rw [encode_eq]
    simp only [Instr.op_ofFields, Instr.rd_ofFields, Instr.rs1_ofFields, Instr.srcB_ofFields, OperandB.bimm, OperandB.rs2Bits,
      OperandB.immWord, fieldOfLReg_lregOfField, hword, ← himm hb]
  · refine ⟨Instr.ofFields op (lregOfField d.rdField) (lregOfField d.rs1Field) (.imm d.imm), ?_⟩
    rw [hb, hrs2 hb, ← hop] at hword
    rw [encode_eq]
    simp only [Instr.op_ofFields, Instr.rd_ofFields, Instr.rs1_ofFields, Instr.srcB_ofFields, OperandB.bimm, OperandB.rs2Bits,
      OperandB.immWord, fieldOfLReg_lregOfField, hword]

/-- R92, R97: the decoder's fields answer an instruction exactly for its own record. -/
theorem decodeFields_eq_ok_iff (d : PackedDIR) (i : Instr) : decodeFields d = .ok i ↔ encode i = d := by
  constructor
  · intro h
    obtain ⟨j, rfl⟩ := exists_encode_eq_of_canonical d (canonical_of_decodeFields d i h)
    rw [decodeFields_encode] at h
    cases h
    rfl
  · rintro rfl
    exact decodeFields_encode i

/-- The decoder answers an instruction exactly for its own record, when the width holds its immediate (R92, R95, R97). -/
theorem decodeDIR_eq_ok_iff_encode (xlen : Nat) (d : PackedDIR) (i : Instr) :
    decodeDIR xlen d = .ok i ↔ encode i = d ∧ i.wellFormed xlen = true := by
  rw [decodeDIR_eq_ok_iff, decodeFields_eq_ok_iff, wellFormed_iff, and_comm]
  exact and_congr_right fun h => by rw [h]

/-- R97: the records that decode are those of the width that pass the four checks. -/
theorem exists_decodeDIR_iff (xlen : Nat) (d : PackedDIR) :
    (∃ i, decodeDIR xlen d = .ok i) ↔ d.immFits xlen ∧ d.canonical := by
  simp only [decodeDIR_eq_ok_iff, exists_and_left]
  refine and_congr_right fun _ => ⟨fun ⟨i, h⟩ => canonical_of_decodeFields d i h, fun h => ?_⟩
  obtain ⟨i, hi⟩ := exists_encode_eq_of_canonical d h
  exact ⟨i, (decodeFields_eq_ok_iff d i).mpr hi⟩

/-! ### Bytes -/

@[simp] theorem bytesLE_length (n v : Nat) : (bytesLE n v).length = n := by
  induction n generalizing v with
  | zero => rfl
  | succ n ih => simp [bytesLE, ih]

/-- R73: the bytes of a number spell it, up to their count. -/
theorem natLE_bytesLE (n v : Nat) : natLE (bytesLE n v) = v % 256 ^ n := by
  induction n generalizing v with
  | zero => simp [bytesLE, natLE, Nat.mod_one]
  | succ n ih =>
    rw [bytesLE, natLE, ih, Nat.pow_succ', Nat.mod_mul]
    simp

/-- An immediate word's bytes hold every value of the width (R73, R92). -/
theorem two_pow_le_immBytes (xlen : Nat) : 2 ^ xlen ≤ 256 ^ immBytes xlen := by
  calc 2 ^ xlen ≤ 2 ^ (8 * immBytes xlen) := Nat.pow_le_pow_right (by decide) (by unfold immBytes; omega)
    _ = 256 ^ immBytes xlen := by rw [Nat.pow_mul]

/-- A record of the width read back from its bytes, with the bytes after it left (R73). -/
theorem ofBytes_toBytes (xlen : Nat) (d : PackedDIR) (rest : List Byte) (h : d.immFits xlen) :
    PackedDIR.ofBytes xlen (d.toBytes xlen ++ rest) = some (d, rest) := by
  have himm : d.imm % 256 ^ immBytes xlen = d.imm := Nat.mod_eq_of_lt (h.trans_le (two_pow_le_immBytes xlen))
  have hcw : d.cw.toNat % 256 ^ 4 = d.cw.toNat := Nat.mod_eq_of_lt d.cw.isLt
  have htake : (d.toBytes xlen ++ rest).take 4 = bytesLE 4 d.cw.toNat := by
    rw [PackedDIR.toBytes, List.append_assoc, List.take_left' (bytesLE_length _ _)]
  have hdrop : (d.toBytes xlen ++ rest).drop 4 = bytesLE (immBytes xlen) d.imm ++ rest := by
    rw [PackedDIR.toBytes, List.append_assoc, List.drop_left' (bytesLE_length _ _)]
  have hlength : ¬ (d.toBytes xlen ++ rest).length < 4 + immBytes xlen := by
    simp [PackedDIR.toBytes]
  rw [PackedDIR.ofBytes, if_neg hlength, ← List.drop_drop, htake, hdrop, List.take_left' (bytesLE_length _ _),
    List.drop_left' (bytesLE_length _ _), natLE_bytesLE, natLE_bytesLE, himm, hcw, BitVec.ofNat_toNat, BitVec.setWidth_eq]

/-! ### The opcode map -/

/-- The mnemonic tells the operation and the kind of the second operand, and nothing more (R96). -/
theorem mnemonic_eq_iff (i j : Instr) : i.mnemonic = j.mnemonic ↔ i.op = j.op ∧ i.srcB.bimm = j.srcB.bimm := by
  cases i <;> cases j <;> simp [Instr.mnemonic, Instr.op, Instr.srcB, OperandB.bimm]

/-- The mask of a form's row: an immediate form's rows test `CW[18:14]` too (R96). -/
def OperandB.mask : OperandB → BitVec 32
  | .reg _ => 0xFFF8000F
  | .imm _ => 0xFFFFC00F

theorem OperandB.mask_getLsbD (src : OperandB) (k : Nat) (hk : k < 32) :
    src.mask.getLsbD k = decide (k < 4 ∨ 14 ≤ k ∧ src.bimm = 1#1 ∨ 19 ≤ k) := by
  cases src with
  | reg _ => exact (by decide : ∀ k < 32, (0xFFF8000F#32).getLsbD k = decide (k < 4 ∨ 14 ≤ k ∧ 0#1 = 1#1 ∨ 19 ≤ k)) k hk
  | imm _ => exact (by decide : ∀ k < 32, (0xFFFFC00F#32).getLsbD k = decide (k < 4 ∨ 14 ≤ k ∧ 1#1 = 1#1 ∨ 19 ≤ k)) k hk

/-- The opcode map's row of an instruction's form (R96). -/
def Instr.row (i : Instr) : OpcodeRow :=
  ⟨i.mnemonic, controlWord (opBits i.op) i.srcB.bimm 0 0 0, i.srcB.mask⟩

/-- R96: every row of the opcode map is the row of some instruction's form. -/
theorem exists_row_of_mem_opcodeMap (r : OpcodeRow) (h : r ∈ opcodeMap) : ∃ j : Instr, r = j.row := by
  have hmap : opcodeMap = [Opcode.add, .sub, .mulu, .divu, .remu].flatMap fun op =>
      [(Instr.ofFields op 0 0 (.reg 0)).row, (Instr.ofFields op 0 0 (.imm 0)).row] := by decide
  rw [hmap, List.mem_flatMap] at h
  obtain ⟨op, -, hr⟩ := h
  rcases List.mem_pair.mp hr with rfl | rfl
  exacts [⟨_, rfl⟩, ⟨_, rfl⟩]

section
variable (op op' : BitVec 3) (b b' : BitVec 1) (rd rs1 rs2 rs2' : BitVec 5)

/-- A row's mask leaves `op` and `bimm`, and an immediate form's leaves `rs2` too (R96). -/
theorem controlWord_and_mask (src : OperandB) :
    controlWord op b rd rs1 rs2 &&& src.mask = controlWord op b 0 0 (if src.bimm = 1#1 then rs2 else 0) := by
  refine BitVec.eq_of_getLsbD_eq fun k hk => ?_
  rw [BitVec.getLsbD_and, src.mask_getLsbD k hk, controlWord_getLsbD, controlWord_getLsbD]
  split_ifs with h3 h4 h9 h14 h19 himm
  · simp [show k < 4 by omega]
  · simp [h4]
  · simp [h4, show ¬ 14 ≤ k by omega, show ¬ 19 ≤ k by omega]
  · simp [h4, show ¬ 14 ≤ k by omega, show ¬ 19 ≤ k by omega]
  · simp [himm, show 14 ≤ k by omega]
  · simp [himm, h4, show ¬ 19 ≤ k by omega]
  · simp

/-- Words without `rd` and `rs1` are equal when their other fields are (R92). -/
theorem controlWord_eq_iff : controlWord op b 0 0 rs2 = controlWord op' b' 0 0 rs2' ↔ op = op' ∧ b = b' ∧ rs2 = rs2' := by
  refine ⟨fun h => ?_, by rintro ⟨rfl, rfl, rfl⟩; rfl⟩
  have hrecord : PackedDIR.mk (controlWord op b 0 0 rs2) 0 = ⟨controlWord op' b' 0 0 rs2', 0⟩ := by rw [h]
  exact ⟨by simpa using congrArg PackedDIR.opField hrecord, by simpa using congrArg PackedDIR.bimmField hrecord,
    by simpa using congrArg PackedDIR.rs2Field hrecord⟩

end

/-- R96: an instruction's control word spells a form's row exactly when operation and kind of second operand are the form's. -/
theorem row_spells_encode_iff (i j : Instr) : j.row.spells (encode i).cw ↔ i.op = j.op ∧ i.srcB.bimm = j.srcB.bimm := by
  have hrs2 : i.srcB.bimm = j.srcB.bimm → (if j.srcB.bimm = 1#1 then i.srcB.rs2Bits else 0) = 0 := by
    cases i.srcB <;> cases j.srcB <;> simp [OperandB.bimm, OperandB.rs2Bits]
  simp only [encode_eq, OpcodeRow.spells, Instr.row, controlWord_and_mask, controlWord_eq_iff, opBits_injective.eq_iff]
  exact and_congr_right fun _ => and_iff_left_of_imp hrs2

/-! ### The fields as numbers, and the fetch of a record -/

section
variable (d : PackedDIR)

theorem opField_toNat : d.opField.toNat = d.cw.toNat % 8 := by
  simp [PackedDIR.opField, BitVec.extractLsb'_toNat]

theorem bimmField_toNat : d.bimmField.toNat = d.cw.toNat / 8 % 2 := by
  simp [PackedDIR.bimmField, BitVec.extractLsb'_toNat, Nat.shiftRight_eq_div_pow]

theorem rs2Field_toNat : d.rs2Field.toNat = d.cw.toNat / 2 ^ 14 % 32 := by
  simp [PackedDIR.rs2Field, BitVec.extractLsb'_toNat, Nat.shiftRight_eq_div_pow]

theorem reservedField_toNat : d.reservedField.toNat = d.cw.toNat / 2 ^ 19 := by
  have hcw := d.cw.isLt
  simp only [PackedDIR.reservedField, BitVec.extractLsb'_toNat, Nat.shiftRight_eq_div_pow]
  omega

/-- R97 on the control word's own bits. -/
theorem canonical_iff : d.canonical ↔ d.cw.toNat % 8 ≤ 4 ∧ d.cw.toNat / 2 ^ 19 = 0 ∧
    (d.cw.toNat / 8 % 2 = 1 → d.cw.toNat / 2 ^ 14 % 32 = 0) ∧ (d.cw.toNat / 8 % 2 = 0 → d.imm = 0) := by
  simp only [PackedDIR.canonical, PackedDIR.opOk, PackedDIR.reservedOk, PackedDIR.rs2Ok, PackedDIR.immOk, ← BitVec.toNat_inj,
    opField_toNat, bimmField_toNat, rs2Field_toNat, reservedField_toNat]
  rfl

end

end Sys2Proof

namespace Sys2Proof.Machine

/-- R100, R144: a location at `PC` that does not decode ends the run when it is fetched. -/
theorem fetchDecode_of_undecodable (s : State) (item : ProgItem) (why : DecodeError) (hdb : s.db = []) (hitem : s.prog[s.pc]? = some item)
    (hdecode : decodeItem s.params.xlen item = .error why) : fetchDecode s = .fault (.decodeError s.pc why) := by
  have hlt : s.pc < s.progLen := (List.getElem?_eq_some_iff.mp hitem).1
  obtain ⟨k, hk⟩ : ∃ k, fetchCount s.pc s.progLen = k + 1 := Nat.exists_eq_succ_of_ne_zero (by
    rw [fetchCount, if_pos hlt, Config.width]
    omega)
  have hread : Memory.read s.prog s.pc = some item := hitem
  simp [fetchDecode, hdb, hk, fetchFrom, hread, hdecode]

end Sys2Proof.Machine

namespace Sys2Proof

/-! ### The obligations about records -/

/-- Settles O2: the record decodes because it is the instruction's own, and its bytes read back as the record. -/
theorem decodeOfEncodeIsTheInstruction : Obligations.DecodeOfEncodeIsTheInstruction := by
  unfold Obligations.DecodeOfEncodeIsTheInstruction
  intro xlen i rest h
  have hrecord : decodeDIR xlen (encode i) = .ok i := (decodeDIR_eq_ok_iff_encode xlen _ i).mpr ⟨rfl, h⟩
  refine ⟨hrecord, ?_⟩
  rw [decodeBytes, encodeBytes, ofBytes_toBytes xlen _ rest ((wellFormed_iff xlen i).mp h)]
  simp only [hrecord]

/-- Settles O3: the decoder answers an instruction for its own record alone. -/
theorem encodeOfDecodeIsTheRecord : Obligations.EncodeOfDecodeIsTheRecord := by
  unfold Obligations.EncodeOfDecodeIsTheRecord
  exact fun xlen d i => (decodeDIR_eq_ok_iff_encode xlen d i).mp

/-- Settles O4: the canonical records are those the encoder writes, and the fetch of a location that does not decode is fatal. -/
theorem onlyCanonicalRecordsDecode : Obligations.OnlyCanonicalRecordsDecode := by
  unfold Obligations.OnlyCanonicalRecordsDecode
  intro xlen d
  refine ⟨by rw [exists_decodeDIR_iff, canonical_iff], ?_⟩
  rintro hnone s rfl hdb hitem
  cases hdecode : decodeDIR s.params.xlen d with
  | ok i => exact absurd ⟨i, hdecode⟩ hnone
  | error why => exact ⟨why, Machine.fetchDecode_of_undecodable s _ why hdb hitem hdecode⟩

/-- Settles O5: row and mnemonic both tell exactly the operation and the kind of the second operand. -/
theorem decodedRecordMatchesItsRowOnly : Obligations.DecodedRecordMatchesItsRowOnly := by
  unfold Obligations.DecodedRecordMatchesItsRowOnly
  intro xlen d i h r hr
  obtain ⟨rfl, -⟩ := (decodeDIR_eq_ok_iff_encode xlen d i).mp h
  obtain ⟨j, rfl⟩ := exists_row_of_mem_opcodeMap r hr
  rw [row_spells_encode_iff]
  exact (mnemonic_eq_iff i j).symm.trans eq_comm

end Sys2Proof

/-! The assembler text (`30_encoding.md` rules R101 to R103): how a text of R101's shape falls apart, how a register name and a decimal literal are
read, and the texts that decode. -/

namespace Sys2Proof

/-! ### Splitting a text -/

/-- A text with no space and no comma: what a mnemonic, a register name and a literal are (R101). -/
def PlainText (t : List Char) : Prop := ∀ c ∈ t, c ≠ ' ' ∧ c ≠ ','

theorem PlainText.cons {c : Char} {t : List Char} (h : PlainText (c :: t)) : (c ≠ ' ' ∧ c ≠ ',') ∧ PlainText t :=
  List.forall_mem_cons.mp h

theorem splitAtSpace_append (before after : List Char) (h : PlainText before) :
    splitAtSpace (before ++ ' ' :: after) = some (before, after) := by
  induction before with
  | nil => simp [splitAtSpace]
  | cons c before ih =>
    obtain ⟨⟨hspace, -⟩, hplain⟩ := h.cons
    simp [splitAtSpace, hspace, ih hplain]

theorem splitAtCommas_plain (t : List Char) (h : PlainText t) : splitAtCommas t = [t] := by
  induction t with
  | nil => rfl
  | cons c t ih =>
    obtain ⟨⟨-, hcomma⟩, hplain⟩ := h.cons
    simp [splitAtCommas, hcomma, ih hplain]

theorem splitAtCommas_append (first rest : List Char) (h : PlainText first) :
    splitAtCommas (first ++ ',' :: rest) = first :: splitAtCommas rest := by
  induction first with
  | nil => simp [splitAtCommas]
  | cons c first ih =>
    obtain ⟨⟨-, hcomma⟩, hplain⟩ := h.cons
    simp [splitAtCommas, hcomma, ih hplain]

theorem splitAtCommas_space_cons (t : List Char) {first : List Char} {others : List (List Char)} (h : splitAtCommas t = first :: others) :
    splitAtCommas (' ' :: t) = (' ' :: first) :: others := by
  simp [splitAtCommas, h]

theorem dropSpaces_space_cons (t : List Char) (h : PlainText t) : dropSpaces (' ' :: t) = t := by
  cases t with
  | nil => rfl
  | cons c t => simp [dropSpaces, h.cons.1.1]

/-- A text of R101's shape falls apart into its mnemonic and its three operands. -/
theorem decodeText_instructionText (xlen : Nat) {m a b c : List Char} (hm : PlainText m) (ha : PlainText a) (hb : PlainText b)
    (hc : PlainText c) : decodeText xlen (instructionText m a b c) = textForm xlen m a b c := by
  have hoperands : splitAtCommas (a ++ ',' :: ' ' :: (b ++ ',' :: ' ' :: c)) = [a, ' ' :: b, ' ' :: c] := by
    have hlast := splitAtCommas_space_cons c (splitAtCommas_plain c hc)
    have hmiddle := splitAtCommas_append b (' ' :: c) hb
    rw [splitAtCommas_append a _ ha, splitAtCommas_space_cons _ hmiddle, hlast]
  have hshape : instructionText m a b c = m ++ ' ' :: (a ++ ',' :: ' ' :: (b ++ ',' :: ' ' :: c)) := by
    simp [instructionText]
  simp only [decodeText, hshape, splitAtSpace_append m _ hm, hoperands, dropSpaces_space_cons b hb, dropSpaces_space_cons c hc]

/-! ### Register names -/

theorem digitChar_toNat {d : Nat} (h : d < 10) : (digitChar d).toNat = 48 + d := by
  interval_cases d <;> rfl

/-- A digit's character is read as the digit (R103). -/
theorem digitValue_digitChar {d : Nat} (h : d < 10) : digitValue (digitChar d) = some d := by
  rw [digitValue, digitChar_toNat h, if_pos (by omega), Nat.add_sub_cancel_left]

/-- A character with another code is another character. -/
theorem digitChar_ne {d : Nat} {c : Char} (h : d < 10) (hc : c.toNat ≠ 48 + d) : digitChar d ≠ c := by
  rintro rfl
  exact hc (digitChar_toNat h)

theorem digitChar_plain {d : Nat} (h : d < 10) : digitChar d ≠ ' ' ∧ digitChar d ≠ ',' :=
  ⟨digitChar_ne h (by simp; omega), digitChar_ne h (by simp; omega)⟩

theorem registerText_plain (r : LReg) : PlainText (registerText r) := by
  have hr : r.val < 32 := r.isLt
  unfold registerText
  split_ifs with h
  · simpa [PlainText] using digitChar_plain h
  · simpa [PlainText] using And.intro (digitChar_plain (d := r.val / 10) (by omega)) (digitChar_plain (Nat.mod_lt r.val (by decide)))

/-- R103: a register's name, of one digit or of two, is read as the register. -/
@[simp] theorem parseRegister_registerText (r : LReg) : parseRegister (registerText r) = some r := by
  have hr : r.val < 32 := r.isLt
  unfold registerText
  split_ifs with h
  · simp [parseRegister, parseDigits, digitsFrom, digitValue_digitChar h]
  · have htens : r.val / 10 < 10 := by omega
    have hones : r.val % 10 < 10 := Nat.mod_lt _ (by decide)
    have hzero : digitChar (r.val / 10) ≠ '0' := digitChar_ne htens (by simp; omega)
    simp [parseRegister, parseDigits, digitsFrom, digitValue_digitChar htens, digitValue_digitChar hones, hzero, Nat.div_add_mod]

theorem textRegisterForm_registerText (form : LReg → LReg → LReg → Instr) (rd rs1 rs2 : LReg) :
    textRegisterForm form (registerText rd) (registerText rs1) (registerText rs2) = .ok (form rd rs1 rs2) := by
  simp [textRegisterForm]

/-! ### Decimal literals -/

theorem digitValue_eq_some {c : Char} {v : Nat} (h : digitValue c = some v) : 48 ≤ c.toNat ∧ c.toNat ≤ 57 := by
  unfold digitValue at h
  split_ifs at h with hdigit
  exact hdigit

theorem digitsFrom_eq_some {acc n : Nat} {t : List Char} (h : digitsFrom acc t = some n) : ∀ c ∈ t, 48 ≤ c.toNat ∧ c.toNat ≤ 57 := by
  induction t generalizing acc with
  | nil => simp
  | cons c t ih =>
    simp only [digitsFrom] at h
    split at h
    next => cases h
    next v hv => exact List.forall_mem_cons.mpr ⟨digitValue_eq_some hv, ih h⟩

section
variable {digits : List Char} {n : Nat}

/-- R103: a decimal number is made of the digits `0` to `9`, codes 48 to 57. -/
theorem parseDigits_eq_some (h : parseDigits digits = some n) : ∀ c ∈ digits, 48 ≤ c.toNat ∧ c.toNat ≤ 57 := by
  cases digits with
  | nil => cases h
  | cons c t => exact digitsFrom_eq_some h

theorem plain_of_parseDigits (h : parseDigits digits = some n) : PlainText digits := by
  intro c hc
  obtain ⟨hlow, -⟩ := parseDigits_eq_some h c hc
  constructor <;> rintro rfl <;> exact absurd hlow (by decide)

theorem plain_minus_of_parseDigits (h : parseDigits digits = some n) : PlainText ('-' :: digits) :=
  List.forall_mem_cons.mpr ⟨by decide, plain_of_parseDigits h⟩

/-- A literal without a sign is its number: no digit is the minus sign (R103). -/
theorem parseInteger_digits (h : parseDigits digits = some n) : parseInteger digits = some (n : Int) := by
  unfold parseInteger
  split
  next t =>
    obtain ⟨hlow, -⟩ := parseDigits_eq_some h '-' List.mem_cons_self
    exact absurd hlow (by decide)
  next => rw [h]

theorem parseInteger_minus (h : parseDigits digits = some n) : parseInteger ('-' :: digits) = some (-(n : Int)) := by
  simp [parseInteger, h]

end

/-- R103's range decides whether a literal's integer has a word (R95). -/
theorem parseImmediate_of_integer (xlen : Nat) {t : List Char} {v : Int} (h : parseInteger t = some v) :
    parseImmediate xlen t = if -(2 ^ (xlen - 1) : Int) ≤ v ∧ v ≤ 2 ^ xlen - 1 then some (trunc xlen v) else none := by
  rw [parseImmediate, h]

/-- R13: the word of a negative number is its two's complement. -/
theorem trunc_neg (xlen n : Nat) (h : n ≤ 2 ^ xlen) : trunc xlen (-(n : Int)) = (2 ^ xlen - n) % 2 ^ xlen := by
  have hadd : -(n : Int) = ((2 ^ xlen - n : Nat) : Int) - 2 ^ xlen := by
    push_cast [h]
    ring
  rw [← trunc_natCast, trunc, trunc, hadd, Int.sub_emod_right]

section
variable (xlen : Nat) {digits : List Char} {n : Nat}

/-- R103: without a sign, the range ends below `2^XLEN`. -/
theorem parseImmediate_digits (h : parseDigits digits = some n) :
    parseImmediate xlen digits = if n < 2 ^ xlen then some n else none := by
  rw [parseImmediate_of_integer xlen (parseInteger_digits h)]
  have hpow : (0 : Int) ≤ 2 ^ (xlen - 1) := by positivity
  have hrange : (-(2 ^ (xlen - 1) : Int) ≤ n ∧ (n : Int) ≤ 2 ^ xlen - 1) ↔ n < 2 ^ xlen := by
    zify
    omega
  simp only [hrange]
  split_ifs with hn
  · rw [trunc_of_lt xlen n hn]
  · rfl

/-- R103: with a minus sign, the range ends at `2^(XLEN - 1)`. -/
theorem parseImmediate_minus (h : parseDigits digits = some n) :
    parseImmediate xlen ('-' :: digits) = if n ≤ 2 ^ (xlen - 1) then some ((2 ^ xlen - n) % 2 ^ xlen) else none := by
  rw [parseImmediate_of_integer xlen (parseInteger_minus h)]
  have hpow : (1 : Int) ≤ 2 ^ xlen := one_le_pow₀ (by decide)
  have hrange : (-(2 ^ (xlen - 1) : Int) ≤ -(n : Int) ∧ -(n : Int) ≤ 2 ^ xlen - 1) ↔ n ≤ 2 ^ (xlen - 1) := by
    zify
    omega
  simp only [hrange]
  split_ifs with hn
  · rw [trunc_neg xlen n (hn.trans (Nat.pow_le_pow_right (by decide) (Nat.sub_le xlen 1)))]
  · rfl

end

/-! ### The obligations about texts and written-out words -/

/-- Settles O6: a register form's text falls apart into its mnemonic and three register names. -/
theorem registerTextsDecode : Obligations.RegisterTextsDecode := by
  unfold Obligations.RegisterTextsDecode
  intro xlen rd rs1 rs2
  have hparts : ∀ m, PlainText m → decodeText xlen (instructionText m (registerText rd) (registerText rs1) (registerText rs2)) =
      textForm xlen m (registerText rd) (registerText rs1) (registerText rs2) := fun m hm =>
    decodeText_instructionText xlen hm (registerText_plain rd) (registerText_plain rs1) (registerText_plain rs2)
  refine ⟨?_, ?_, ?_, ?_, ?_⟩
  all_goals
    refine (hparts _ (by simp [PlainText])).trans ?_
    exact textRegisterForm_registerText _ rd rs1 rs2

/-- The `addi` text is decided by its literal (R102, R103). -/
theorem decodeText_addi (xlen : Nat) (rd rs1 : LReg) {c : List Char} (hc : PlainText c) :
    decodeText xlen (instructionText ['a', 'd', 'd', 'i'] (registerText rd) (registerText rs1) c) =
      (parseImmediate xlen c).elim (.error .badImmediate) fun v => .ok (.addi rd rs1 v) := by
  have hm : PlainText ['a', 'd', 'd', 'i'] := by simp [PlainText]
  rw [decodeText_instructionText xlen hm (registerText_plain rd) (registerText_plain rs1) hc]
  cases h : parseImmediate xlen c <;> simp [textForm, textImmediateForm, h]

/-- Settles O7: the literal's range, with and without the sign, decides the text. -/
theorem addiTextsDecode : Obligations.AddiTextsDecode := by
  unfold Obligations.AddiTextsDecode
  intro xlen rd rs1 digits n h
  have hdigits := decodeText_addi xlen rd rs1 (plain_of_parseDigits h)
  have hminus := decodeText_addi xlen rd rs1 (plain_minus_of_parseDigits h)
  rw [parseImmediate_digits xlen h] at hdigits
  rw [parseImmediate_minus xlen h] at hminus
  refine ⟨fun hn => ?_, fun hn => ?_, fun hn => ?_, fun hn => ?_⟩
  · simpa [hn] using hdigits
  · simpa [Nat.not_lt.mpr hn] using hdigits
  · simpa [hn] using hminus
  · simpa [Nat.not_le.mpr hn] using hminus

/-- Settles O1: the decoder is run on each of the eleven words, laid out as bytes. -/
theorem writtenOutWordsDecode : Obligations.WrittenOutWordsDecode := by
  unfold Obligations.WrittenOutWordsDecode
  exact ⟨by decide, by decide, by decide, by decide, by decide, by decide, by decide, by decide, by decide, by decide, by decide⟩

end Sys2Proof

/-! One cycle, stage by stage: how Dispatch runs the batch through `exec` (`42_rename_dispatch.md` rules R160, R168, R170), and where a run has no cycle
(`40_cycle.md` rules R120, R121, R124). -/

namespace Sys2Proof.Machine

/-! ### The batch of Rename/Dispatch -/

/-- One buffer entry dispatched, presented alone in a buffer that is empty again afterwards (R160). -/
def State.dispatchEntry (s : State) (e : DBEntry) : State :=
  (renameDispatch e.instr.op e.instr.rd e.instr.rs1 e.instr.srcB (s.withDb [e])).withDb []

@[simp] theorem dispatchEntry_params (s : State) (e : DBEntry) : (s.dispatchEntry e).params = s.params := by
  simp [State.dispatchEntry, renameDispatch_frame]

/-- R163: a stalled entry writes nothing. -/
theorem dispatchEntry_of_fl_nil (s : State) (e : DBEntry) (h : s.fl = []) : s.dispatchEntry e = s.withDb [] := by
  rw [State.dispatchEntry, renameDispatch_nil _ _ _ _ (s.withDb [e]) h]
  rfl

theorem dispatchEntry_of_fl_cons (s : State) (e : DBEntry) {p : PReg} {rest : List PReg} (h : s.fl = p :: rest) :
    s.dispatchEntry e = ((s.withDb [e]).allocate e.instr.op e.instr.rd e.instr.rs1 e.instr.srcB p rest).withDb [] := by
  rw [State.dispatchEntry, renameDispatch_cons _ _ _ _ (s.withDb [e]) p rest h]

/-- One register leaves the Free List for each entry dispatched (R164). -/
@[simp] theorem dispatchEntry_fl (s : State) (e : DBEntry) : (s.dispatchEntry e).fl = s.fl.tail := by
  cases h : s.fl with
  | nil => rw [dispatchEntry_of_fl_nil s e h, withDb_fl, h, List.tail_nil]
  | cons p rest => rw [dispatchEntry_of_fl_cons s e h]; rfl

/-- Of the buffer, renaming and dispatching reads the first entry's PC only (R165). -/
theorem renameDispatch_withDb_cons (e : DBEntry) (rest : List DBEntry) (s : State) :
    renameDispatch e.instr.op e.instr.rd e.instr.rs1 e.instr.srcB (s.withDb (e :: rest)) = (s.dispatchEntry e).withDb (e :: rest) := by
  cases h : s.fl with
  | nil =>
    rw [dispatchEntry_of_fl_nil s e h, renameDispatch_nil _ _ _ _ (s.withDb (e :: rest)) h]
    rfl
  | cons p free =>
    rw [dispatchEntry_of_fl_cons s e h, renameDispatch_cons _ _ _ _ (s.withDb (e :: rest)) p free h]
    rfl

/-- The loop of R170 in one piece: every entry in order, then the entries the Free List did not reach kept or lost (R163, R168). -/
theorem dispatchLoop_eq (batch remaining : List DBEntry) (s : State) :
    dispatchLoop batch remaining s =
      .next ((batch.foldl State.dispatchEntry (s.withDb [])).withDb (s.stalledBuffer (remaining ++ batch.drop s.fl.length))) := by
  induction batch generalizing remaining s with
  | nil =>
    rw [dispatchLoop_nil, List.drop_nil, List.append_nil]
    rfl
  | cons e rest ih =>
    have hbuffer : (if s.fl.isEmpty then remaining ++ [e] else remaining) ++ rest.drop s.fl.tail.length =
        remaining ++ (e :: rest).drop s.fl.length := by
      cases s.fl <;> simp
    have hparams : ∀ l, ((s.dispatchEntry e).withDb (e :: rest)).stalledBuffer l = s.stalledBuffer l := by
      intro l
      simp [State.stalledBuffer]
    rw [dispatchLoop_cons, renameDispatch_withDb_cons, ih, hparams, withDb_fl, dispatchEntry_fl, hbuffer]
    rfl

/-- `Dispatch()` in one piece (R170). -/
theorem dispatch_eq (s : State) :
    dispatch s = .next ((s.db.foldl State.dispatchEntry (s.withDb [])).withDb (s.stalledBuffer (s.db.drop s.fl.length))) :=
  dispatchLoop_eq s.db [] s

/-- The meanings of a batch, run one after another, are its entries dispatched (R160, R170). -/
theorem foldl_exec_eq (batch : List DBEntry) (s : State) :
    batch.foldl (fun o x => andThen o fun u => andThen (exec x.instr (u.withDb [x])) fun v => .next (v.withDb [])) (.next s) =
      .next (batch.foldl State.dispatchEntry s) := by
  induction batch generalizing s with
  | nil => rfl
  | cons e rest ih =>
    rw [List.foldl_cons, andThen_next, exec_eq_renameDispatch, andThen_next]
    exact ih (s.dispatchEntry e)

/-! ### The RUN cycle without a fault -/

/-- R121: when the run is not over and Commit finds no fault, the step is the stages after Commit and the snapshot. -/
theorem step_of_noFault (s e : State) (hrun : s.mode = .run) (hgoes : s.drained = false) (hfault : (commit s).2 = false)
    (he : execute (commit s).1 = .next e) :
    step s = andThen (dispatch (issue e)) fun d => andThen (fetchDecode d) fun u => .next u.emit := by
  have hstages : laterStages (commit s).1 = andThen (dispatch (issue e)) fetchDecode := by rw [laterStages, he, andThen_next]
  have hcycle : step s = runCycle s := by simp [step, hrun, runStep, hgoes]
  rw [hcycle, runCycle]
  cases hd : dispatch (issue e) <;> simp [hfault, hstages, hd, finishCycle]

/-- What waits in the decode buffer is not touched before Dispatch, and neither are the parameters. -/
theorem issue_after_commit_frame (s e : State) (he : execute (commit s).1 = .next e) : (issue e).db = s.db ∧ (issue e).params = s.params := by
  obtain ⟨hdb, -, -, -, -, -, hparams⟩ := commit_frame s
  obtain ⟨al, prf, busy, iq, rfl⟩ := execute_frame _ e he
  exact ⟨hdb, hparams⟩

theorem drained_iff (s : State) : s.drained = true ↔ s.progLen ≤ s.pc ∧ s.db = [] ∧ s.al = [] := by
  simp [State.drained, and_assoc]

/-- Settles O23: Dispatch is the meanings in order, and the later stages run it between Issue and Fetch/Decode. -/
theorem cycleRunsEveryDecodedInstruction : Obligations.CycleRunsEveryDecodedInstruction := by
  unfold Obligations.CycleRunsEveryDecodedInstruction
  intro s e hrun hgoes hfault he
  obtain ⟨hdb, hparams⟩ := issue_after_commit_frame s e he
  have hstall : (issue e).stalledBuffer = s.stalledBuffer := by
    funext l
    simp [State.stalledBuffer, hparams]
  refine ⟨_, foldl_exec_eq _ _, ?_⟩
  rw [step_of_noFault s e hrun hgoes hfault he, dispatch_eq, hdb, hstall, andThen_next]

/-- Settles O22: the batch of one is its own instruction's meaning. -/
theorem stepRunsTheDecodedInstruction : Obligations.StepRunsTheDecodedInstruction := by
  unfold Obligations.StepRunsTheDecodedInstruction
  intro s e pc i hrun hbuffer hfault he
  obtain ⟨hdb, -⟩ := issue_after_commit_frame s e he
  have hgoes : s.drained = false := by simp [State.drained, hbuffer]
  have hsame : (issue e).withDb [⟨pc, i⟩] = issue e := by rw [← hbuffer, ← hdb]; rfl
  rw [step_of_noFault s e hrun hgoes hfault he, dispatch, hdb, hbuffer, dispatchLoop, hsame]
  cases exec i (issue e) <;> simp [dispatchLoop_nil]

/-- Settles O24: the step's two refusing modes. -/
theorem finishedRunHasNoStep : Obligations.FinishedRunHasNoStep := by
  unfold Obligations.FinishedRunHasNoStep
  rintro s (hdone | herror)
  · simp [step, hdone]
  · simp [step, herror]

/-- Settles O25: such a state is drained. -/
theorem drainedRunEnds : Obligations.DrainedRunEnds := by
  unfold Obligations.DrainedRunEnds
  intro s hrun hpc hdb hal
  have hdrained := (drained_iff s).mpr ⟨hpc, hdb, hal⟩
  simp [step, hrun, runStep, hdrained, State.withMode]

end Sys2Proof.Machine

/-! The block interfaces of `40_cycle.md` rules R134 to R136: the signals of Issue, Execute, Commit and Recovery drive what their stages do. -/

namespace Sys2Proof.Machine

/-! ### Issue (R134) -/

theorem maskedEntries_cons (b c : Bool) (mask : List Bool) (e : IQEntry) (q : List IQEntry) :
    maskedEntries b (c :: mask) (e :: q) = if c = b then e :: maskedEntries b mask q else maskedEntries b mask q := by
  cases b <;> cases c <;> rfl

theorem removalMask_full (e : IQEntry) (rest : List IQEntry) : removalMask 0 (e :: rest) = false :: removalMask 0 rest := by
  simp [removalMask]

theorem removalMask_ready (n : Nat) (e : IQEntry) (rest : List IQEntry) (h : e.ready = true) :
    removalMask (n + 1) (e :: rest) = true :: removalMask n rest := by
  simp [removalMask, h]

theorem removalMask_notReady (n : Nat) (e : IQEntry) (rest : List IQEntry) (h : e.ready = false) :
    removalMask n (e :: rest) = false :: removalMask n rest := by
  simp [removalMask, h]

theorem selectReady_zero (q : List IQEntry) : selectReady 0 q = ([], q) := by
  cases q <;> rfl

/-- The scan of R186 parts the queue by the removal mask. -/
theorem selectReady_eq_maskedEntries (n : Nat) (q : List IQEntry) :
    selectReady n q = (maskedEntries true (removalMask n q) q, maskedEntries false (removalMask n q) q) := by
  induction q generalizing n with
  | nil => cases n <;> rfl
  | cons e rest ih =>
    cases n with
    | zero =>
      have hrest := (selectReady_zero rest).symm.trans (ih 0)
      simp only [Prod.mk.injEq] at hrest
      obtain ⟨hselected, hkept⟩ := hrest
      simp [selectReady_zero, removalMask_full, maskedEntries_cons, ← hselected, ← hkept]
    | succ n =>
      cases hready : e.ready with
      | true => simp [selectReady, hready, removalMask_ready, maskedEntries_cons, ih]
      | false => simp [selectReady, hready, removalMask_notReady, maskedEntries_cons, ih]

/-- Settles O40: the scan and the mask part the queue alike. -/
theorem issueBlockIsTheStage : Obligations.IssueBlockIsTheStage := by
  unfold Obligations.IssueBlockIsTheStage
  intro s
  rw [issue, selectReady_eq_maskedEntries]
  rfl

/-! ### Execute (R135) -/

/-- The result bus of a latch entry (R135, R201). -/
def IQEntry.bus (xlen : Nat) (e : IQEntry) : ResultBus := ⟨e.pc, e.destReg, (e.result xlen).value, (e.result xlen).fault⟩

theorem executeBlock_cons (xlen : Nat) (e : IQEntry) (rest : List IQEntry) :
    executeBlock xlen (e :: rest) = e.bus xlen :: executeBlock xlen rest := rfl

/-- An Active List entry as a mark for `pc` leaves it: flagged when the PC is its own (R202). -/
def ALEntry.marked (pc : Nat) (f : Bool) (a : ALEntry) : ALEntry := if a.pc = pc then { a with done := true, exc := f } else a

@[simp] theorem marked_pc (pc : Nat) (f : Bool) (a : ALEntry) : (a.marked pc f).pc = a.pc := by
  unfold ALEntry.marked
  split <;> rfl

theorem marked_of_ne {pc : Nat} (f : Bool) {a : ALEntry} (h : a.pc ≠ pc) : a.marked pc f = a := if_neg h

theorem map_marked_of_forall_ne {pc : Nat} (f : Bool) {al : List ALEntry} (h : ∀ a ∈ al, a.pc ≠ pc) : al.map (ALEntry.marked pc f) = al := by
  rw [List.map_congr_left fun a ha => marked_of_ne f (h a ha), List.map_id']

theorem driveBus_al (s : State) (b : ResultBus) : (s.driveBus b).al = s.al.map (ALEntry.marked b.pc b.fault) := rfl

/-- A bus leaves the PCs of the Active List. -/
theorem driveBus_al_pcs (s : State) (b : ResultBus) : (s.driveBus b).al.map ALEntry.pc = s.al.map ALEntry.pc := by
  simp [driveBus_al]

/-- Where the PCs differ, marking the first entry with a PC is marking by PC match (R202, R135). -/
theorem markDone_eq_map_marked (pc : Nat) (f : Bool) (al : List ALEntry) (hdistinct : (al.map ALEntry.pc).Nodup) (hhas : pc ∈ al.map ALEntry.pc) :
    markDone pc f al = some (al.map (ALEntry.marked pc f)) := by
  induction al with
  | nil => cases hhas
  | cons a rest ih =>
    obtain ⟨hfresh, hrest⟩ := List.nodup_cons.mp hdistinct
    by_cases h : a.pc = pc
    · have hothers : ∀ b ∈ rest, b.pc ≠ pc := fun b hb hpc => hfresh (List.mem_map.mpr ⟨b, hb, hpc.trans h.symm⟩)
      rw [List.map_cons, map_marked_of_forall_ne f hothers]
      simp [markDone, ALEntry.marked, h]
    · have hpc : pc ∈ rest.map ALEntry.pc := List.mem_of_ne_of_mem (Ne.symm h) hhas
      simp [markDone, h, ih hrest hpc, marked_of_ne f h]

/-- One latch entry executed is its bus driven (R135, R202 to R205). -/
theorem executeOne_eq_driveBus (e : IQEntry) (s : State) (hdistinct : (s.al.map ALEntry.pc).Nodup) (hhas : e.pc ∈ s.al.map ALEntry.pc) :
    executeOne e s = .next (s.driveBus (e.bus s.params.xlen)) := by
  rw [executeOne, markDone_eq_map_marked _ _ _ hdistinct hhas]
  cases hfault : (e.result s.params.xlen).fault with
  | true =>
    simp only [State.writeback, State.driveBus, IQEntry.bus, hfault, if_true]
    rfl
  | false =>
    simp only [State.writeback, State.driveBus, IQEntry.bus, hfault]
    rfl

/-- The latch executed in order is its buses driven in order (R135, R200). -/
theorem executeLoop_eq_driveBus (latch : List IQEntry) (s : State) (hdistinct : (s.al.map ALEntry.pc).Nodup)
    (hhas : ∀ e ∈ latch, e.pc ∈ s.al.map ALEntry.pc) :
    executeLoop latch s = .next ((executeBlock s.params.xlen latch).foldl State.driveBus s) := by
  induction latch generalizing s with
  | nil => rfl
  | cons e rest ih =>
    obtain ⟨he, hrest⟩ := List.forall_mem_cons.mp hhas
    rw [executeLoop, executeOne_eq_driveBus e s hdistinct he, andThen_next, executeBlock_cons, List.foldl_cons]
    rw [← driveBus_al_pcs s (e.bus s.params.xlen)] at hdistinct hrest
    exact ih _ hdistinct hrest

/-- Settles O44: the latch's buses are driven one after another, then the latch is emptied. -/
theorem executeBlockIsTheStage : Obligations.ExecuteBlockIsTheStage := by
  unfold Obligations.ExecuteBlockIsTheStage
  intro s hdistinct hhas
  rw [execute, executeLoop_eq_driveBus s.execLatch s hdistinct fun e he => List.mem_map.mpr (hhas e he)]
  rfl

/-! ### Commit (R136) -/

/-- The commit half at an empty Active List. -/
theorem commitBlock_nil : commitBlock [] = ⟨0, [], false, faultVector, false, 0⟩ := rfl

/-- The commit half at a head that may not retire: its fault flag is the fault signal (R253, R254). -/
theorem commitBlock_of_not_retirable (h : ALEntry) (rest : List ALEntry) (hr : h.retirable = false) :
    commitBlock (h :: rest) = ⟨0, [], h.exc, faultVector, h.exc, h.pc⟩ := by
  simp [commitBlock, hr]

/-- The commit half at a head that may retire: one more retired and pushed (R251, R252). -/
theorem commitBlock_of_retirable (h : ALEntry) (rest : List ALEntry) (hr : h.retirable = true) :
    commitBlock (h :: rest) =
      { commitBlock rest with retired := (commitBlock rest).retired + 1, flPushes := h.oldDest :: (commitBlock rest).flPushes } := by
  simp [commitBlock, hr]

/-- Signals that retire nothing and find no fault drive nothing. -/
theorem driveCommit_idle (s : State) (v pc : Nat) : s.driveCommit ⟨0, [], false, v, false, pc⟩ = s := by
  simp [State.driveCommit]

/-- The loop of R256 does what the commit half's outputs drive. -/
theorem commitLoop_eq_driveCommit (al : List ALEntry) (s : State) :
    commitLoop al (s.withAl al) = ((s.withAl al).driveCommit (commitBlock al), (commitBlock al).faultDetected) := by
  induction al generalizing s with
  | nil => rw [commitLoop_nil, commitBlock_nil, driveCommit_idle]
  | cons h rest ih =>
    cases hexc : h.exc with
    | true =>
      rw [commitLoop_fault _ _ _ hexc, commitBlock_of_not_retirable _ _ (by simp [ALEntry.retirable, hexc])]
      simp [hexc, State.driveCommit, takeFault_eq]
    | false =>
      cases hdone : h.done with
      | false =>
        rw [commitLoop_wait _ _ _ hexc hdone, commitBlock_of_not_retirable _ _ (by simp [ALEntry.retirable, hdone]), hexc, driveCommit_idle]
      | true =>
        have hretired : ((s.withAl (h :: rest)).withAl rest).pushFree h.oldDest = (s.pushFree h.oldDest).withAl rest := rfl
        rw [commitLoop_retire _ _ _ hexc hdone, commitBlock_of_retirable _ _ (by simp [ALEntry.retirable, hexc, hdone]), hretired, ih]
        simp [State.driveCommit, pushFree_eq, State.withAl]

/-- Settles O47: `Commit()` is its loop over the whole Active List. -/
theorem commitBlockIsTheStage : Obligations.CommitBlockIsTheStage := by
  unfold Obligations.CommitBlockIsTheStage
  exact fun s => commitLoop_eq_driveCommit s.al s

/-! ### Recovery (R136) -/

/-- A read behind the bypass is a read after the writes, the latest of which counts (R167). -/
theorem bypassMap_eq_getElem (rat : Vector PReg Config.nlog) (writes : List (LReg × PReg)) (r : LReg) :
    bypassMap rat writes r = (writes.foldl (fun m w => m.set w.1.val w.2) rat)[r.val] := by
  induction writes using List.reverseRecOn with
  | nil => rfl
  | append_singleton writes w ih =>
    by_cases h : w.1 = r
    · simp [bypassMap, h]
    · have hval : w.1.val ≠ r.val := fun e => h (Fin.ext e)
      simpa [bypassMap, h, Vector.getElem_set_ne, hval] using ih

/-- A squash neither reads nor writes the Active List (R282, R285). -/
theorem squash_withAl (s : State) (al : List ALEntry) (e : ALEntry) : (s.withAl al).squash e = (s.squash e).withAl al := by
  cases hv : s.params.recoveryVariant with
  | observed => rw [squash_observed s e hv, squash_observed (s.withAl al) e hv]; rfl
  | corrected => rw [squash_corrected s e hv, squash_corrected (s.withAl al) e hv]; rfl

/-- `n` entries taken from the tail one after another are the youngest `n`, squashed youngest first (R281). -/
theorem squashTail_eq_foldl (n : Nat) (s : State) :
    squashTail n s = (s.al.reverse.take n).foldl State.squash (s.withAl (s.al.take (s.al.length - n))) := by
  induction n generalizing s with
  | zero => simp [squashTail, State.withAl]
  | succ n ih =>
    rcases List.eq_nil_or_concat' s.al with hnil | ⟨older, e, hal⟩
    · rw [squashTail_nil _ _ hnil, hnil, List.take_nil, ← hnil, List.reverse_eq_nil_iff.mpr hnil]
      rfl
    · have hlen : older.length + 1 - (n + 1) = older.length - n := by omega
      rw [squashTail_concat _ _ _ _ hal, squash_withAl, ih, withAl_al, hal]
      simp only [List.reverse_concat, List.take_succ_cons, List.foldl_cons, List.length_append, List.length_singleton, hlen,
        List.take_append_of_le_length (Nat.sub_le _ n), squash_withAl]
      rfl

/-- The recovery half's outputs with one more entry squashed on top, in either variant (R282, R285). -/
def squashOut (v : Config.RecoveryVariant) (rat : Vector PReg Config.nlog) (o : RecoverOut) (e : ALEntry) : RecoverOut :=
  match v with
  | .observed => { o with flPushes := o.flPushes ++ [e.oldDest] }
  | .corrected => correctedOut rat o e

theorem foldl_squashOut_observed (rat : Vector PReg Config.nlog) (gone : List ALEntry) (o : RecoverOut) :
    gone.foldl (squashOut .observed rat) o = { o with flPushes := o.flPushes ++ gone.map ALEntry.oldDest } := by
  induction gone generalizing o with
  | nil => simp
  | cons e rest ih => simp [ih, squashOut]

/-- The recovery half, the same for both variants: the entries' outputs put on top of each other, youngest first. -/
theorem recoverBlock_eq_foldl (v : Config.RecoveryVariant) (rat : Vector PReg Config.nlog) (al : List ALEntry) :
    recoverBlock v rat al =
      (al.reverse.take 4).foldl (squashOut v rat) ⟨true, (al.reverse.take 4).length, [], [], []⟩ := by
  cases v with
  | observed => rw [foldl_squashOut_observed]; rfl
  | corrected => rfl

/-- One squash on top of driven outputs drives the outputs with that squash on top: the register a corrected squash frees is the one behind the bypass (R285). -/
theorem squash_driveRecover (s : State) (o : RecoverOut) (e : ALEntry) :
    (s.driveRecover o).squash e = s.driveRecover (squashOut s.params.recoveryVariant s.rat o e) := by
  cases hv : s.params.recoveryVariant with
  | observed =>
    rw [squash_observed (s.driveRecover o) e hv]
    exact congrArg (s.driveRecover o).withFl (List.append_assoc s.fl o.flPushes [e.oldDest])
  | corrected =>
    have hfreed : (s.driveRecover o).mapOf e.logDest = bypassMap s.rat o.ratWrites e.logDest := (bypassMap_eq_getElem _ _ _).symm
    rw [squash_corrected (s.driveRecover o) e hv, hfreed]
    simp only [squashOut, correctedOut, State.driveRecover, List.foldl_append, List.foldl_cons, List.foldl_nil, ← List.append_assoc]
    rfl

theorem foldl_squash_driveRecover (gone : List ALEntry) (s : State) (o : RecoverOut) :
    gone.foldl State.squash (s.driveRecover o) = s.driveRecover (gone.foldl (squashOut s.params.recoveryVariant s.rat) o) := by
  induction gone generalizing o with
  | nil => rfl
  | cons e rest ih => rw [List.foldl_cons, squash_driveRecover, ih, List.foldl_cons]

/-- Nothing squashed yet: the Issue Queue flushed and the Active List cut. -/
theorem driveRecover_of_no_entries (s : State) (k : Nat) :
    s.driveRecover ⟨true, k, [], [], []⟩ = (s.withIq []).withAl (s.al.take (s.al.length - k)) := by
  simp [State.driveRecover, State.withIq, State.withAl]

/-- The squash of a RECOVER step is what the recovery half's outputs drive (R136, R281). -/
theorem squashTail_eq_driveRecover (s : State) :
    squashTail 4 (s.withIq []) = s.driveRecover (recoverBlock s.params.recoveryVariant s.rat s.al) := by
  have hcut : s.al.length - (s.al.reverse.take 4).length = s.al.length - 4 := by
    rw [List.length_take, List.length_reverse]
    omega
  rw [squashTail_eq_foldl, recoverBlock_eq_foldl, ← foldl_squash_driveRecover, driveRecover_of_no_entries, hcut]
  rfl

/-- Settles O49: the squash is the block's, and the step adds the snapshot and the next mode. -/
theorem recoverBlockIsTheStage : Obligations.RecoverBlockIsTheStage := by
  unfold Obligations.RecoverBlockIsTheStage
  intro s hmode
  have hstay : (s.driveRecover (recoverBlock s.params.recoveryVariant s.rat s.al)).mode = .recover := hmode
  simp only [step, hmode, recoverStep_eq, squashTail_eq_driveRecover, hstay, List.isEmpty_iff]

end Sys2Proof.Machine

/-! The fetch block of `40_cycle.md` rule R132: its ports' `decode_ok` bits say whether the stage faults, and its slots are the batch the stage reads. -/

namespace Sys2Proof.Machine

/-- A list read through `n` slots, its entries packed again, when the slots are enough (R132, R133). -/
theorem filterMap_ofFn_getElem? {α : Type} (n : Nat) (l : List α) (h : l.length ≤ n) : (List.ofFn fun j : Fin n => l[j.val]?).filterMap id = l := by
  induction n generalizing l with
  | zero => rw [List.length_eq_zero_iff.mp (Nat.le_zero.mp h)]; rfl
  | succ n ih =>
    cases l with
    | nil => simp
    | cons a rest => simpa using ih rest (Nat.le_of_succ_le_succ h)

/-- Location `i` holds an item that decodes to `instr` (R71, R91, R144). -/
def Memory.decodesTo (xlen : Nat) (prog : List ProgItem) (i : Nat) (instr : Instr) : Prop :=
  ∃ item, Memory.read prog i = some item ∧ decodeItem xlen item = .ok instr

/-- R132: a port's `decode_ok` is high exactly where the location decodes. -/
theorem programPort_decodeOk_iff (xlen : Nat) (prog : List ProgItem) (i : Nat) :
    (programPort xlen prog i).decodeOk = true ↔ ∃ instr, Memory.decodesTo xlen prog i instr := by
  unfold programPort Memory.decodesTo
  cases Memory.read prog i with
  | none => simp
  | some item => cases h : decodeItem xlen item <;> simp [h]

/-- R132: the port of a location that decodes carries its packed record. -/
theorem programPort_of_decodesTo {xlen : Nat} {prog : List ProgItem} {i : Nat} {instr : Instr} (h : Memory.decodesTo xlen prog i instr) :
    programPort xlen prog i = ⟨(encode instr).cw, (encode instr).imm, true⟩ := by
  obtain ⟨item, hread, hdecode⟩ := h
  simp [programPort, hread, hdecode]

/-- R143, R144: a fetch of `k` locations within the program gives a batch, each entry with its index as its PC, or ends at one that does not decode. -/
theorem fetchFrom_cases (xlen : Nat) (prog : List ProgItem) (k i : Nat) (hin : i + k ≤ prog.length) :
    (∃ batch, fetchFrom xlen prog k i = .ok batch ∧ batch.length = k ∧
      ∀ (j : Nat) (e : DBEntry), batch[j]? = some e → e.pc = i + j ∧ Memory.decodesTo xlen prog (i + j) e.instr) ∨
    (∃ j < k, (¬ ∃ instr, Memory.decodesTo xlen prog (i + j) instr) ∧ ∃ why, fetchFrom xlen prog k i = .error (.decodeError (i + j) why)) := by
  induction k generalizing i with
  | zero => exact .inl ⟨[], rfl, rfl, by simp⟩
  | succ k ih =>
    have hread : Memory.read prog i = some prog[i] := List.getElem?_eq_getElem (by omega)
    cases hdecode : decodeItem xlen prog[i] with
    | error why =>
      refine .inr ⟨0, Nat.succ_pos k, ?_, why, by simp [fetchFrom, hread, hdecode]⟩
      simp [Memory.decodesTo, hread, hdecode]
    | ok instr =>
      rcases ih (i + 1) (by omega) with ⟨batch, hbatch, hlength, hentries⟩ | ⟨j, hj, hbad, why, hfault⟩
      · refine .inl ⟨⟨i, instr⟩ :: batch, by simp [fetchFrom, hread, hdecode, hbatch], by simp [hlength], fun j e he => ?_⟩
        cases j with
        | zero =>
          cases he
          exact ⟨rfl, _, hread, hdecode⟩
        | succ j =>
          rw [Nat.add_comm j 1, ← Nat.add_assoc]
          exact hentries j e he
      · rw [Nat.add_assoc, Nat.add_comm 1 j] at hbad hfault
        exact .inr ⟨j + 1, Nat.succ_lt_succ hj, hbad, why, by simp [fetchFrom, hread, hdecode, hfault]⟩

/-- The stage reads within the program or not at all (R141), so it gives a batch or ends at a location that does not decode. -/
theorem fetchFrom_pc_cases (s : State) :
    let k := fetchCount s.pc s.progLen
    (∃ batch, fetchFrom s.params.xlen s.prog k s.pc = .ok batch ∧ batch.length = k ∧
      ∀ (j : Nat) (e : DBEntry), batch[j]? = some e → e.pc = s.pc + j ∧ Memory.decodesTo s.params.xlen s.prog (s.pc + j) e.instr) ∨
    (∃ j < k, (¬ ∃ instr, Memory.decodesTo s.params.xlen s.prog (s.pc + j) instr) ∧
      ∃ why, fetchFrom s.params.xlen s.prog k s.pc = .error (.decodeError (s.pc + j) why)) := by
  intro k
  by_cases hk : k = 0
  · rw [hk]
    exact .inl ⟨[], rfl, rfl, by simp⟩
  · exact fetchFrom_cases _ _ _ _ (pc_add_fetchCount_le _ _ hk)

/-- R132: the fatal error is high exactly when an enabled fetch reads a location that does not decode. -/
theorem fetchBlock_fatal_iff (s : State) :
    (fetchBlock s.fetchIn).fatalDecodeError = true ↔
      s.db = [] ∧ ∃ j < fetchCount s.pc s.progLen, ¬ ∃ instr, Memory.decodesTo s.params.xlen s.prog (s.pc + j) instr := by
  have hport : ∀ j : Nat, (programPort s.params.xlen s.prog (s.pc + j)).decodeOk = false ↔
      ¬ ∃ instr, Memory.decodesTo s.params.xlen s.prog (s.pc + j) instr := fun j => by
    rw [← programPort_decodeOk_iff, Bool.not_eq_true]
  have hwidth := fetchCount_le_width s.pc s.progLen
  by_cases hdb : s.db = []
  · simp only [fetchBlock, State.fetchIn, hdb, List.isEmpty_nil, if_true, List.any_eq_true, Vector.getElem_ofFn, Bool.and_eq_true,
      decide_eq_true_eq, Bool.not_eq_true', hport, true_and]
    exact ⟨fun ⟨j, _, hj, hbad⟩ => ⟨j.val, hj, hbad⟩, fun ⟨j, hj, hbad⟩ => ⟨⟨j, by omega⟩, List.mem_finRange _, hj, hbad⟩⟩
  · simp [fetchBlock, State.fetchIn, hdb]

/-- R132, R143: the slots, packed, are a batch whose entries are the locations from `PC` on. -/
theorem fetchBlock_slots (s : State) (batch : List DBEntry) (hdb : s.db = []) (hlength : batch.length = fetchCount s.pc s.progLen)
    (hbatch : ∀ (j : Nat) (e : DBEntry), batch[j]? = some e → e.pc = s.pc + j ∧ Memory.decodesTo s.params.xlen s.prog (s.pc + j) e.instr) :
    (fetchBlock s.fetchIn).slots.toList.filterMap id = batch.map DBEntry.slot := by
  have hslot : ∀ j : Fin Config.width, (fetchBlock s.fetchIn).slots[j.val] = (batch.map DBEntry.slot)[j.val]? := fun j => by
    by_cases hj : j.val < batch.length
    · obtain ⟨hpc, hdecode⟩ := hbatch j.val _ (List.getElem?_eq_getElem hj)
      simp [fetchBlock, State.fetchIn, hdb, ← hlength, hj, programPort_of_decodesTo hdecode, DBEntry.slot, hpc]
    · simp [fetchBlock, State.fetchIn, hdb, ← hlength, hj]
  have hslots : (fetchBlock s.fetchIn).slots = Vector.ofFn fun j : Fin Config.width => (batch.map DBEntry.slot)[j.val]? := by
    ext j hj : 1
    rw [Vector.getElem_ofFn]
    exact hslot ⟨j, hj⟩
  have hwidth : (batch.map DBEntry.slot).length ≤ Config.width := by
    rw [List.length_map, hlength]
    exact fetchCount_le_width _ _
  rw [hslots, Vector.toList_ofFn, filterMap_ofFn_getElem? _ _ hwidth]

/-- Settles O36: disabled, the stage does nothing; enabled, it gives the batch or the fault that the block's outputs give. -/
theorem fetchBlockIsTheStage : Obligations.FetchBlockIsTheStage := by
  unfold Obligations.FetchBlockIsTheStage
  intro s o
  rw [fetchBlock_fatal_iff]
  by_cases hdb : s.db = []
  · have hen : o.fetchEn = true := by simp [o, fetchBlock, State.fetchIn, hdb]
    have hk : o.k = fetchCount s.pc s.progLen := by simp [o, fetchBlock, State.fetchIn, hdb]
    have hpcNext : o.pcNext = s.pc + fetchCount s.pc s.progLen := by simp [o, fetchBlock, State.fetchIn, hdb]
    rcases fetchFrom_pc_cases s with ⟨batch, hbatch, hlength, hentries⟩ | ⟨j, hj, hbad, why, hfault⟩
    · have hnext : fetchDecode s = .next ((s.withDb batch).withPc (s.pc + fetchCount s.pc s.progLen)) := by
        simp [fetchDecode, hdb, hbatch]
      have hgood : ∀ j < fetchCount s.pc s.progLen, ∃ instr, Memory.decodesTo s.params.xlen s.prog (s.pc + j) instr := fun j hj =>
        ⟨_, (hentries j _ (List.getElem?_eq_getElem (hlength ▸ hj))).2⟩
      refine ⟨⟨fun ⟨_, j, hj, hbad⟩ => absurd (hgood j hj) hbad, fun ⟨i, why, h⟩ => by simp [hnext] at h⟩, fun t ht => ?_⟩
      rw [hnext, Host.Outcome.next.injEq] at ht
      subst ht
      exact ⟨hpcNext.symm, fun h => by simp [hen] at h, fun _ => ⟨fetchBlock_slots s batch hdb hlength hentries, hlength.trans hk.symm⟩⟩
    · have hstop : fetchDecode s = .fault (.decodeError (s.pc + j) why) := by simp [fetchDecode, hdb, hfault]
      exact ⟨⟨fun _ => ⟨_, _, hstop⟩, fun _ => ⟨hdb, j, hj, hbad⟩⟩, fun t ht => by simp [hstop] at ht⟩
  · have hen : o.fetchEn = false := by simp [o, fetchBlock, State.fetchIn, hdb]
    have hpcNext : o.pcNext = s.pc := by simp [o, fetchBlock, State.fetchIn, hdb]
    have hnext : fetchDecode s = .next s := by simp [fetchDecode, hdb]
    refine ⟨⟨fun h => absurd h.1 hdb, fun ⟨i, why, h⟩ => by simp [hnext] at h⟩, fun t ht => ?_⟩
    rw [hnext, Host.Outcome.next.injEq] at ht
    subst ht
    exact ⟨hpcNext.symm, fun _ => rfl, fun h => by simp [hen] at h⟩

end Sys2Proof.Machine

/-! The snapshots of a run: each step hands out one of the state it leaves, and none is read again (`40_cycle.md` rules R126, R127). -/

namespace Sys2Proof.Machine

/-- A stage that answers the same next state whatever snapshots were handed out before, and hands out none. -/
def IgnoresTrace (f : State → Result) : Prop :=
  ∀ s t : State, f s = .next t → t.trace = s.trace ∧ ∀ l, f (s.withTrace l) = .next (t.withTrace l)

theorem IgnoresTrace.andThen {f g : State → Result} (hf : IgnoresTrace f) (hg : IgnoresTrace g) : IgnoresTrace fun s => andThen (f s) g := by
  intro s t h
  obtain ⟨u, hu, ht⟩ := (andThen_eq_next_iff _ _ _).mp h
  obtain ⟨hsu, hfu⟩ := hf s u hu
  obtain ⟨hut, hgt⟩ := hg u t ht
  refine ⟨hut.trans hsu, fun l => ?_⟩
  simp only [hfu, andThen_next, hgt]

/-- A stage that always answers, and the same with other earlier snapshots. -/
theorem IgnoresTrace.of_next {g : State → State} (htrace : ∀ s, (g s).trace = s.trace) (hcomm : ∀ s l, g (s.withTrace l) = (g s).withTrace l) :
    IgnoresTrace fun s => .next (g s) := by
  intro s t h
  cases h
  exact ⟨htrace s, fun l => congrArg Host.Outcome.next (hcomm s l)⟩

/-! ### The stages -/

theorem commit_withTrace (s : State) (l : List Snapshot) : commit (s.withTrace l) = ((commit s).1.withTrace l, (commit s).2) := by
  rw [commitBlockIsTheStage, commitBlockIsTheStage]
  rfl

theorem commit_trace (s : State) : (commit s).1.trace = s.trace := by
  rw [commitBlockIsTheStage]
  rfl

theorem writeback_withTrace (s : State) (dest : PReg) (r : AluResult) (l : List Snapshot) :
    (s.withTrace l).writeback dest r = (s.writeback dest r).withTrace l := by
  unfold State.writeback
  cases r.fault <;> rfl

theorem executeOne_ignoresTrace (e : IQEntry) : IgnoresTrace (executeOne e) := by
  intro s t h
  rcases executeOne_cases e s with ⟨-, hfault⟩ | ⟨al, hmark, hnext⟩
  · simp [hfault] at h
  · rw [hnext, Host.Outcome.next.injEq] at h
    subst h
    refine ⟨by simp [writeback_fields], fun l => ?_⟩
    rw [← writeback_withTrace]
    simp only [executeOne, withTrace_params, withTrace_al, hmark]
    rfl

theorem executeLoop_ignoresTrace (latch : List IQEntry) : IgnoresTrace (executeLoop latch) := by
  induction latch with
  | nil => exact IgnoresTrace.of_next (fun _ => rfl) fun _ _ => rfl
  | cons e rest ih => exact (executeOne_ignoresTrace e).andThen ih

theorem execute_ignoresTrace : IgnoresTrace execute := by
  intro s t h
  have hlast : IgnoresTrace fun u => .next (u.withExecLatch []) := IgnoresTrace.of_next (fun _ => rfl) fun _ _ => rfl
  exact (executeLoop_ignoresTrace s.execLatch).andThen hlast s t h

theorem dispatchEntry_trace (s : State) (e : DBEntry) : (s.dispatchEntry e).trace = s.trace := by
  simp [State.dispatchEntry, renameDispatch_frame]

theorem dispatchEntry_withTrace (s : State) (e : DBEntry) (l : List Snapshot) :
    (s.withTrace l).dispatchEntry e = (s.dispatchEntry e).withTrace l := by
  cases h : s.fl with
  | nil => rw [dispatchEntry_of_fl_nil s e h, dispatchEntry_of_fl_nil (s.withTrace l) e h]; rfl
  | cons p rest => rw [dispatchEntry_of_fl_cons s e h, dispatchEntry_of_fl_cons (s.withTrace l) e h]; rfl

theorem foldl_dispatchEntry_withTrace (batch : List DBEntry) (s : State) (l : List Snapshot) :
    (batch.foldl State.dispatchEntry s).trace = s.trace ∧
      batch.foldl State.dispatchEntry (s.withTrace l) = (batch.foldl State.dispatchEntry s).withTrace l := by
  induction batch generalizing s with
  | nil => exact ⟨rfl, rfl⟩
  | cons e rest ih =>
    obtain ⟨htrace, hcomm⟩ := ih (s.dispatchEntry e)
    exact ⟨htrace.trans (dispatchEntry_trace s e), by rw [List.foldl_cons, dispatchEntry_withTrace, hcomm, List.foldl_cons]⟩

theorem dispatch_ignoresTrace : IgnoresTrace dispatch := by
  have hfold := fun s : State => foldl_dispatchEntry_withTrace s.db (s.withDb [])
  rw [funext dispatch_eq]
  refine IgnoresTrace.of_next (fun s => (hfold s []).1) fun s l => ?_
  exact congrArg (fun t : State => t.withDb (s.stalledBuffer (s.db.drop s.fl.length))) (hfold s l).2

theorem issue_ignoresTrace : IgnoresTrace fun s => .next (issue s) := IgnoresTrace.of_next (fun _ => rfl) fun _ _ => rfl

theorem fetchDecode_ignoresTrace : IgnoresTrace fetchDecode := by
  intro s t h
  rcases fetchDecode_cases s with ⟨hdb, hs⟩ | ⟨hdb, entries, hentries, hs⟩ | ⟨-, r, -, hs⟩ <;> rw [hs] at h <;> cases h
  · exact ⟨rfl, fun l => by simp [fetchDecode, hdb]⟩
  · refine ⟨rfl, fun l => ?_⟩
    have hlength : (s.withTrace l).progLen = s.progLen := rfl
    simp only [fetchDecode, withTrace_db, hdb, List.isEmpty_nil, if_true, withTrace_params, withTrace_prog, withTrace_pc, hlength, hentries]
    rfl

theorem laterStages_ignoresTrace : IgnoresTrace laterStages :=
  execute_ignoresTrace.andThen (issue_ignoresTrace.andThen (dispatch_ignoresTrace.andThen fetchDecode_ignoresTrace))

/-! ### The step -/

/-- The end of a cycle hands out one snapshot of what it leaves (R121, R126). -/
theorem finishCycle_trace (fault : Bool) (u : State) : (finishCycle fault u).trace = u.trace ++ [(finishCycle fault u).snapshot] := by
  rw [finishCycle_eq]
  rfl

theorem finishCycle_withTrace (fault : Bool) (u : State) (l : List Snapshot) :
    finishCycle fault (u.withTrace l) = (finishCycle fault u).withTrace (l ++ [(finishCycle fault u).snapshot]) := by
  rw [finishCycle_eq, finishCycle_eq]
  rfl

theorem runCycle_snapshot (s t : State) (l : List Snapshot) (h : runCycle s = .next t) :
    t.trace = s.trace ++ [t.snapshot] ∧ runCycle (s.withTrace l) = .next (t.withTrace (l ++ [t.snapshot])) := by
  have htrace := commit_trace s
  simp only [runCycle, commit_withTrace, withTrace_params] at h ⊢
  by_cases hcut : ((commit s).2 && !(commit s).1.params.faultCycleCompletes) = true
  · rw [if_pos hcut, Host.Outcome.next.injEq] at h
    subst h
    rw [if_pos hcut, finishCycle_withTrace, finishCycle_trace, htrace]
    exact ⟨rfl, rfl⟩
  · rw [if_neg hcut] at h
    obtain ⟨u, hu, ht⟩ := (andThen_eq_next_iff _ _ _).mp h
    cases ht
    obtain ⟨hsame, hblind⟩ := laterStages_ignoresTrace _ u hu
    rw [if_neg hcut, hblind, andThen_next, finishCycle_withTrace, finishCycle_trace, hsame, htrace]
    exact ⟨rfl, rfl⟩

theorem recoverStep_snapshot (s : State) (l : List Snapshot) :
    (recoverStep s).trace = s.trace ++ [(recoverStep s).snapshot] ∧
      recoverStep (s.withTrace l) = (recoverStep s).withTrace (l ++ [(recoverStep s).snapshot]) := by
  rw [recoverStep_eq, recoverStep_eq, squashTail_eq_driveRecover, squashTail_eq_driveRecover]
  exact ⟨rfl, rfl⟩

/-- Settles O28: the end of a drained run hands out nothing, and every other kind of step one snapshot. -/
theorem stepHandsOutOneSnapshot : Obligations.StepHandsOutOneSnapshot := by
  unfold Obligations.StepHandsOutOneSnapshot
  intro s t l h
  refine ⟨_, rfl, ?_⟩
  rcases step_eq_next s t h with ⟨hm, hd, rfl⟩ | ⟨hm, hd, hc⟩ | ⟨hm, rfl⟩ | ⟨hm, rfl⟩ | ⟨hm, rfl⟩
  · have hd' : (s.withTrace l).drained = true := hd
    simp [step, runStep, hm, hd, hd']
    rfl
  · have hd' : (s.withTrace l).drained = false := hd
    obtain ⟨htrace, hblind⟩ := runCycle_snapshot s t l hc
    simp [step, runStep, hm, hd, hd', htrace, hblind]
  · obtain ⟨htrace, hblind⟩ := recoverStep_snapshot s l
    simp [step, hm, htrace, hblind]
  · simp [step, hm, recoverFinalStep_eq, State.withTrace, State.snapshot, State.decodedPCs]
  · simp [step, hm, recoverClearStep_eq, clearFault_eq, State.withTrace, State.snapshot, State.decodedPCs]

end Sys2Proof.Machine

/-! The rename block of `40_cycle.md` rule R133: its slots, read at once behind the bypass of `42_rename_dispatch.md` rule R167, see what each instruction of the
batch sees when the batch is dispatched one at a time. -/

namespace Sys2Proof.Machine

/-! ### The batch as grants -/

/-- A buffer entry dispatched with the register it is granted (R164, R165). -/
def State.grantEntry (s : State) (g : DBEntry × PReg) : State :=
  ((s.withDb [g.1]).allocate g.1.instr.op g.1.instr.rd g.1.instr.rs1 g.1.instr.srcB g.2 s.fl.tail).withDb []

/-- The state after some entries have been dispatched with their registers, its buffer empty. -/
def State.afterGrants (s : State) (grants : List (DBEntry × PReg)) : State := grants.foldl State.grantEntry (s.withDb [])

/-- The mappings a list of grants writes, oldest first (R164). -/
def grantWrites (grants : List (DBEntry × PReg)) : List (LReg × PReg) := grants.map fun g => (g.1.instr.rd, g.2)

/-- A batch dispatched is its entries granted the free registers in order; the entries left over stall (R163, R164). -/
theorem foldl_dispatchEntry_eq_grants (batch : List DBEntry) (s : State) (h : s.db = []) :
    batch.foldl State.dispatchEntry s = (batch.zip s.fl).foldl State.grantEntry s := by
  induction batch generalizing s with
  | nil => rfl
  | cons e rest ih =>
    have hdispatched := ih (s.dispatchEntry e) rfl
    rw [dispatchEntry_fl] at hdispatched
    cases hfl : s.fl with
    | nil =>
      have hsame : s.dispatchEntry e = s := by rw [dispatchEntry_of_fl_nil s e hfl, ← h]; rfl
      rw [hsame, hfl] at hdispatched
      simpa [hsame] using hdispatched
    | cons p free =>
      have hgrant : s.dispatchEntry e = s.grantEntry (e, p) := by
        rw [dispatchEntry_of_fl_cons s e hfl, State.grantEntry, hfl, List.tail_cons]
      rw [hfl, List.tail_cons] at hdispatched
      rw [List.foldl_cons, hdispatched, hgrant, List.zip_cons_cons, List.foldl_cons]

theorem mapIdx_take_concat {α β : Type} (f : List α → α → β) (l : List α) (a : α) :
    (l ++ [a]).mapIdx (fun j x => f ((l ++ [a]).take j) x) = l.mapIdx (fun j x => f (l.take j) x) ++ [f l a] := by
  rw [List.mapIdx_concat, List.take_left]
  congr 1
  refine List.ext_getElem (by simp) fun j hj _ => ?_
  rw [List.length_mapIdx] at hj
  rw [List.getElem_mapIdx, List.getElem_mapIdx, List.take_append_of_le_length hj.le]

/-- What a list of grants leaves: the writes and Busy sets in order, the registers popped, and each entry's records as it saw the grants before it. -/
theorem afterGrants_eq (s : State) (grants : List (DBEntry × PReg)) :
    s.afterGrants grants =
      { s with
        db := []
        rat := (grantWrites grants).foldl (fun m w => m.set w.1.val w.2) s.rat
        busy := (grants.map Prod.snd).foldl (fun b p => b.set p.val true) s.busy
        fl := s.fl.drop grants.length
        al := s.al ++ grants.mapIdx fun j g => newALEntry ((s.afterGrants (grants.take j)).withDb [g.1]) g.1.instr.rd
        iq := s.iq ++ grants.mapIdx fun j g =>
          newIQEntry ((s.afterGrants (grants.take j)).withDb [g.1]) g.1.instr.op g.1.instr.rs1 g.1.instr.srcB g.2 } := by
  induction grants using List.reverseRecOn with
  | nil => simp [State.afterGrants, State.withDb, grantWrites]
  | append_singleton earlier g ih =>
    have hstep : s.afterGrants (earlier ++ [g]) = (s.afterGrants earlier).grantEntry g := by simp [State.afterGrants]
    rw [mapIdx_take_concat (fun before g => newALEntry ((s.afterGrants before).withDb [g.1]) g.1.instr.rd),
      mapIdx_take_concat (fun before g => newIQEntry ((s.afterGrants before).withDb [g.1]) g.1.instr.op g.1.instr.rs1 g.1.instr.srcB g.2),
      hstep]
    generalize s.afterGrants earlier = u at ih ⊢
    subst ih
    simp only [grantWrites, List.map_append, List.map_cons, List.map_nil, List.foldl_append, List.foldl_cons, List.foldl_nil,
      List.length_append, List.length_singleton, ← List.append_assoc, ← List.tail_drop]
    rfl

section
variable (s : State) (grants : List (DBEntry × PReg))

/-- R167: after earlier grants a mapping reads behind the bypass of their RAT writes. -/
theorem mapOf_afterGrants (r : LReg) : (s.afterGrants grants).mapOf r = bypassMap s.rat (grantWrites grants) r := by
  rw [bypassMap_eq_getElem, afterGrants_eq]
  rfl

theorem foldl_set_true_getElem (ps : List PReg) (busy : Vector Bool Config.nphys) (p : PReg) :
    (ps.foldl (fun b q => b.set q.val true) busy)[p.val] = (ps.contains p || busy[p.val]) := by
  induction ps using List.reverseRecOn with
  | nil => rfl
  | append_singleton earlier q ih =>
    by_cases h : q = p
    · simp [h]
    · have hval : q.val ≠ p.val := fun e => h (Fin.ext e)
      simpa [Vector.getElem_set_ne, hval, Ne.symm h] using ih

/-- R167: after earlier grants a Busy bit reads behind the bypass of their Busy sets. -/
theorem isBusy_afterGrants (p : PReg) : (s.afterGrants grants).isBusy p = ((grants.map Prod.snd).contains p || s.isBusy p) := by
  rw [State.isBusy, State.isBusy, ← foldl_set_true_getElem, afterGrants_eq]

/-- R162: renaming writes no register value. -/
theorem prfAt_afterGrants (p : PReg) : (s.afterGrants grants).prfAt p = s.prfAt p := by
  rw [afterGrants_eq]
  rfl

end

/-! ### The block's signals -/

/-- The record of an instruction's slot is the instruction (R92, R132). -/
@[simp] theorem record_slot (e : DBEntry) : e.slot.record = some e := by
  have hfields : decodeFields ⟨(encode e.instr).cw, (encode e.instr).imm⟩ = .ok e.instr := decodeFields_encode e.instr
  rw [DBSlot.record, DBEntry.slot, hfields]

section
variable (s : State)

/-- R133: four slots show a whole decode buffer of R43. -/
theorem renameIn_records (h : s.db.length ≤ 4) : s.renameIn.records = s.db := by
  have hslots : s.renameIn.slots.toList = List.ofFn fun j : Fin Config.width => (s.db.map DBEntry.slot)[j.val]? := by
    simp only [State.renameIn, Vector.toList_ofFn, List.getElem?_map]
  have hvalid := filterMap_ofFn_getElem? Config.width (s.db.map DBEntry.slot) (by rw [List.length_map]; exact h)
  calc s.renameIn.records = (s.renameIn.slots.toList.filterMap id).filterMap DBSlot.record := by
        rw [RenameRequest.records, List.filterMap_filterMap]
        rfl
    _ = s.db := by rw [hslots, hvalid, List.filterMap_map]; simp

/-- R133: the Free List's head reaches as far into the batch as the whole of it. -/
theorem renameIn_grants (h : s.db.length ≤ 4) : s.renameIn.grants = s.db.zip s.fl := by
  have hhead : s.renameIn.flHead.take s.renameIn.flLength = s.fl.take 4 := List.take_of_length_le (List.length_take_le' _ _)
  have hall : (s.db.zip s.fl).length ≤ 4 := by
    rw [List.length_zip]
    omega
  rw [RenameRequest.grants, renameIn_records s h, hhead, ← List.take_of_length_le hall, List.zip, List.take_zipWith,
    List.take_of_length_le h]

/-- R167: slot `j` finds the mapping that dispatching the grants before it leaves. -/
theorem mapBefore_renameIn (j : Nat) (r : LReg) :
    s.renameIn.mapBefore j r = (s.afterGrants (s.renameIn.grants.take j)).mapOf r := (mapOf_afterGrants s _ r).symm

/-- R162, R167: an operand from its read ports is the operand that dispatching the grants before the slot finds. -/
theorem operand_renameIn (j k : Nat) (hk : k < readPorts) :
    s.renameIn.operand j k hk = physicalOperand (s.afterGrants (s.renameIn.grants.take j)) (s.renameIn.readAddress k) := by
  have hsets : (s.renameIn.writesBefore j).map Prod.snd = (s.renameIn.grants.take j).map Prod.snd := by
    rw [RenameRequest.writesBefore, List.map_map]
    rfl
  have hbusy : s.renameIn.busyPorts[k] = s.isBusy (s.renameIn.readAddress k) := Vector.getElem_ofFn _
  have hprf : s.renameIn.prfPorts[k] = s.prfAt (s.renameIn.readAddress k) := Vector.getElem_ofFn _
  rw [RenameIn.operand, physicalOperand, isBusy_afterGrants, prfAt_afterGrants, hsets, hbusy, hprf]

/-- The entry in a granted slot is that of the decode buffer (R160). -/
theorem renameIn_records_of_grant {j : Nat} {g : DBEntry × PReg} (hg : s.renameIn.grants[j]? = some g) : s.renameIn.records[j]? = some g.1 :=
  (List.getElem?_zip_eq_some.mp hg).1

/-- R161: the two read ports of a slot are at its physical sources. -/
theorem readAddress_source1 {j : Nat} {g : DBEntry × PReg} (hg : s.renameIn.grants[j]? = some g) :
    s.renameIn.readAddress (2 * j) = s.renameIn.mapBefore j g.1.instr.rs1 := by
  simp [RenameRequest.readAddress, renameIn_records_of_grant s hg]

theorem readAddress_source2 {j : Nat} {g : DBEntry × PReg} {r : LReg} (hg : s.renameIn.grants[j]? = some g) (hsrc : g.1.instr.srcB = .reg r) :
    s.renameIn.readAddress (2 * j + 1) = s.renameIn.mapBefore j r := by
  have hslot : (2 * j + 1) / 2 = j := by omega
  simp [RenameRequest.readAddress, hslot, renameIn_records_of_grant s hg, hsrc]

/-- R165: slot `j` appends the Issue Queue entry that dispatching it after the grants before it creates. -/
theorem iqAppend_renameIn (j : Fin Config.width) (g : DBEntry × PReg) (hg : s.renameIn.grants[j.val]? = some g) :
    s.renameIn.iqAppend j g.1 g.2 =
      newIQEntry ((s.afterGrants (s.renameIn.grants.take j.val)).withDb [g.1]) g.1.instr.op g.1.instr.rs1 g.1.instr.srcB g.2 := by
  rw [RenameIn.iqAppend, operand_renameIn, readAddress_source1 s hg, mapBefore_renameIn]
  cases hsrc : g.1.instr.srcB with
  | imm v => rfl
  | reg r =>
    simp only [operand_renameIn, readAddress_source2 s hg hsrc, mapBefore_renameIn]
    rfl

/-- R133: the Issue Queue appends in slot order are those of dispatching one at a time. -/
theorem renameBlock_iqAppends (h : s.renameIn.grants.length ≤ Config.width) :
    (renameBlock s.renameIn).iqAppends = s.renameIn.grants.mapIdx fun j g =>
      newIQEntry ((s.afterGrants (s.renameIn.grants.take j)).withDb [g.1]) g.1.instr.op g.1.instr.rs1 g.1.instr.srcB g.2 := by
  rw [← filterMap_ofFn_getElem? Config.width (List.mapIdx _ _) (by rw [List.length_mapIdx]; exact h), List.ofFn_eq_map, List.filterMap_map]
  refine List.filterMap_congr fun j _ => ?_
  cases hg : s.renameIn.grants[j.val]? with
  | none => simp [hg]
  | some g => simp [hg, iqAppend_renameIn s j g hg]

/-- R133: the Active List appends are those of dispatching one at a time. -/
theorem renameBlock_alAppends :
    (renameBlock s.renameIn).alAppends =
      s.renameIn.grants.mapIdx fun j g => newALEntry ((s.afterGrants (s.renameIn.grants.take j)).withDb [g.1]) g.1.instr.rd := by
  simp only [renameBlock, mapBefore_renameIn]
  rfl

end

/-- Settles O38: the batch dispatched is its grants in order, and the block's signals drive what they leave. -/
theorem renameBlockIsTheStage : Obligations.RenameBlockIsTheStage := by
  unfold Obligations.RenameBlockIsTheStage
  intro s h
  have hgrants := renameIn_grants s h
  have hcount : s.renameIn.grants.length = min s.db.length s.fl.length := by rw [hgrants, List.length_zip]
  have hwidth : s.renameIn.grants.length ≤ Config.width := by
    rw [hcount]
    exact (Nat.min_le_left _ _).trans h
  have hwrites : (renameBlock s.renameIn).ratWrites = grantWrites s.renameIn.grants := by
    rw [← List.take_of_length_le hwidth]
    rfl
  have hstalled : s.db.drop (renameBlock s.renameIn).consumed = s.db.drop s.fl.length := by
    change s.db.drop s.renameIn.grants.length = _
    rcases Nat.le_total s.db.length s.fl.length with hle | hle
    · rw [hcount, Nat.min_eq_left hle, List.drop_length, List.drop_eq_nil_of_le hle]
    · rw [hcount, Nat.min_eq_right hle]
  have hbatch : s.db.foldl State.dispatchEntry (s.withDb []) = s.afterGrants s.renameIn.grants := by
    rw [foldl_dispatchEntry_eq_grants _ _ rfl, hgrants]
    rfl
  rw [dispatch_eq, hbatch, afterGrants_eq, State.driveRename, hwrites, hstalled, renameBlock_alAppends, renameBlock_iqAppends s hwidth]
  rfl

end Sys2Proof.Machine

/-! What keeps a run moving (`40_cycle.md` rule R129, `70_reset_and_hazards.md` rule R327): what waits, waits for something older that is in flight, so the oldest
instruction never waits for ever. This is the part of R320, R322, R323 and R326 that the end of a run rests on, kept by every stage of a cycle. -/

namespace Sys2Proof.Machine

/-- Register `p` has a producer older than `pc` that has not executed without fault: an entry in the queue or among those issued, or a faulting entry, which
never retires (R203, R253). -/
def State.Pending (s : State) (issued : List IQEntry) (p : PReg) (pc : Nat) : Prop :=
  (∃ e ∈ s.iq ++ issued, e.destReg = p ∧ e.pc < pc) ∨ ∃ a ∈ s.al, a.exc = true ∧ a.pc < pc

/-- The operand of the entry with PC `pc` does not wait in vain (R326). -/
def State.AwaitsPending (s : State) (issued : List IQEntry) (pc : Nat) (o : Operand) : Prop :=
  o.ready = false → s.Pending issued o.tag pc

/-- The instructions in flight, `issued` being those that left the queue and have not executed: the Active List is in program order; a fault comes with `Done`; the entries
that wait or are issued are, by PC, the Active List entries that are not `Done`; what waits and what is busy has its producer; and 32 registers are free or
displaced (R320, R322, R323, R326). -/
structure InFlight (s : State) (issued : List IQEntry) : Prop where
  ordered : (s.al.map ALEntry.pc).Pairwise (· < ·)
  faultDone : ∀ a ∈ s.al, a.exc = true → a.done = true
  waiting : ((s.iq ++ issued).map IQEntry.pc).Perm ((s.al.filter fun a => !a.done).map ALEntry.pc)
  operands : ∀ q ∈ s.iq, s.AwaitsPending issued q.pc q.operandA ∧ s.AwaitsPending issued q.pc q.operandB
  busy : ∀ p, s.isBusy p = true → ∃ pc, s.Pending issued p pc
  count : s.fl.length + s.al.length = 32

section
variable {s t : State} {issued : List IQEntry}

theorem InFlight.nodup (h : InFlight s issued) : (s.al.map ALEntry.pc).Nodup := h.ordered.imp fun hlt => Nat.ne_of_lt hlt

/-- An entry that waits or is issued has its Active List entry, not `Done` (R322). -/
theorem InFlight.alEntry (h : InFlight s issued) {e : IQEntry} (he : e ∈ s.iq ++ issued) : ∃ a ∈ s.al, a.done = false ∧ a.pc = e.pc := by
  have hmem := h.waiting.subset (List.mem_map_of_mem he)
  simpa [and_assoc] using hmem

/-- What the predicate is about: the Active List, the queue, the Busy bits and the Free List. -/
theorem InFlight.congr (h : InFlight s issued) (hal : t.al = s.al) (hiq : t.iq = s.iq) (hbusy : t.busy = s.busy) (hfl : t.fl = s.fl) : InFlight t issued := by
  have hpending : t.Pending issued = s.Pending issued := by
    funext p pc
    simp only [State.Pending, hal, hiq]
  exact
    { ordered := hal ▸ h.ordered
      faultDone := hal ▸ h.faultDone
      waiting := by rw [hal, hiq]; exact h.waiting
      operands := by
        rw [hiq]
        simpa only [State.AwaitsPending, hpending] using h.operands
      busy := by simpa only [hpending, isBusy_congr s t hbusy] using h.busy
      count := by rw [hal, hfl]; exact h.count }

/-- A producer in flight is older than every PC past the Active List. -/
theorem InFlight.pending_of_past (h : InFlight s issued) {p : PReg} {pc pc' : Nat} (hp : s.Pending issued p pc) (hpast : ∀ a ∈ s.al, a.pc < pc') :
    s.Pending issued p pc' := by
  rcases hp with ⟨e, he, hdest, -⟩ | ⟨a, ha, hexc, -⟩
  · obtain ⟨a, ha, -, hpc⟩ := h.alEntry he
    exact .inl ⟨e, he, hdest, hpc ▸ hpast a ha⟩
  · exact .inr ⟨a, ha, hexc, hpast a ha⟩

/-- More in flight, no fewer producers. -/
theorem pending_mono {issued' : List IQEntry} {p : PReg} {pc : Nat} (hiq : s.iq ++ issued ⊆ t.iq ++ issued') (hal : ∀ a ∈ s.al, a.exc = true → a ∈ t.al)
    (hp : s.Pending issued p pc) : t.Pending issued' p pc := by
  rcases hp with ⟨e, he, hdest, hpc⟩ | ⟨a, ha, hexc, hpc⟩
  · exact .inl ⟨e, hiq he, hdest, hpc⟩
  · exact .inr ⟨a, hal a ha hexc, hexc, hpc⟩

/-! ### Commit -/

/-- Retiring and taking a fault keep what is in flight: nothing retired waits or faults (R251, R253). -/
theorem InFlight.commit (h : InFlight s issued) : InFlight (commit s).1 issued := by
  obtain ⟨pre, post, hal, hpre, hc⟩ := commit_cases s
  have hretired : InFlight { s with al := post, fl := s.fl ++ pre.map ALEntry.oldDest } issued := by
    have hkept : ∀ a ∈ s.al, a.exc = true → a ∈ post := by
      intro a ha hexc
      rw [hal] at ha
      refine (List.mem_append.mp ha).resolve_left fun hin => ?_
      simp [(hpre a hin).2] at hexc
    have hsub : post.Sublist s.al := hal ▸ List.sublist_append_right pre post
    have hwaits : s.al.filter (fun a => !a.done) = post.filter fun a => !a.done := by
      rw [hal, List.filter_append, List.filter_eq_nil_iff.mpr fun a ha => by simp [(hpre a ha).1], List.nil_append]
    have hpending : ∀ p pc, s.Pending issued p pc → State.Pending { s with al := post, fl := s.fl ++ pre.map ALEntry.oldDest } issued p pc :=
      fun p pc => pending_mono (List.Subset.refl _) hkept
    refine { ordered := h.ordered.sublist (hsub.map _), faultDone := fun a ha => h.faultDone a (hsub.subset ha), waiting := hwaits ▸ h.waiting,
             operands := fun q hq => ?operands, busy := fun p hp => ?busy, count := ?count }
    case operands =>
      obtain ⟨hA, hB⟩ := h.operands q hq
      exact ⟨fun hr => hpending _ _ (hA hr), fun hr => hpending _ _ (hB hr)⟩
    case busy =>
      obtain ⟨pc, hpc⟩ := h.busy p hp
      exact ⟨pc, hpending p pc hpc⟩
    case count =>
      have hcount := h.count
      simp only [hal, List.length_append, List.length_map] at hcount ⊢
      omega
  rcases hc with hc | ⟨a, rest, -, -, hc⟩ <;> rw [hc]
  · exact hretired
  · exact hretired.congr rfl rfl rfl rfl

/-! ### Execute -/

@[simp] theorem wakeEntry_pc (tag : PReg) (v : Nat) (e : IQEntry) : (wakeEntry tag v e).pc = e.pc := rfl
theorem wakeEntry_operandA (tag : PReg) (v : Nat) (e : IQEntry) : (wakeEntry tag v e).operandA = wakeOperand tag v e.operandA := rfl
theorem wakeEntry_operandB (tag : PReg) (v : Nat) (e : IQEntry) : (wakeEntry tag v e).operandB = wakeOperand tag v e.operandB := rfl

/-- An operand that a broadcast leaves waiting waits for another register, and is as it was (R205). -/
theorem wakeOperand_waits {tag : PReg} {v : Nat} {o : Operand} (h : (wakeOperand tag v o).ready = false) : wakeOperand tag v o = o ∧ o.tag ≠ tag := by
  unfold wakeOperand at h ⊢
  split_ifs at h ⊢ with hwoken
  exact ⟨rfl, fun htag => hwoken ⟨h, htag⟩⟩

end

section
variable {s : State} {e : IQEntry} {rest : List IQEntry}

/-- A faulting entry is `Done`, so it is not the one an issued entry marks (R202). -/
theorem InFlight.marked_of_exc (h : InFlight s (e :: rest)) (f : Bool) {a : ALEntry} (ha : a ∈ s.al) (hexc : a.exc = true) : a.marked e.pc f = a := by
  refine marked_of_ne f fun hpc => ?_
  obtain ⟨b, hb, hwaits, hbpc⟩ := h.alEntry (List.mem_append_right _ (List.mem_cons_self (a := e) (l := rest)))
  have hsame : a = b := List.inj_on_of_nodup_map h.nodup ha hb (hpc.trans hbpc.symm)
  simp [hsame ▸ h.faultDone a ha hexc] at hwaits

/-- The Active List entries left waiting once the issued entry is marked. -/
theorem filter_map_marked (pc : Nat) (f : Bool) (al : List ALEntry) :
    (al.map (ALEntry.marked pc f)).filter (fun a => !a.done) = (al.filter fun a => !a.done).filter fun a => a.pc != pc := by
  induction al with
  | nil => rfl
  | cons a rest ih =>
    by_cases hpc : a.pc = pc
    · cases hdone : a.done <;> simpa [ALEntry.marked, hpc, hdone] using ih
    · cases hdone : a.done <;> simpa [ALEntry.marked, hpc, hdone] using ih

/-- A bus takes away the one producer it is the result of, and no producer at all when it faults (R203, R205). -/
theorem InFlight.pending_driveBus (h : InFlight s (e :: rest)) (w : Nat) {p : PReg} {pc : Nat} (hp : s.Pending (e :: rest) p pc)
    (hother : (e.result w).fault = true ∨ p ≠ e.destReg) : (s.driveBus (e.bus w)).Pending rest p pc := by
  have hwoken : ∀ q ∈ s.iq, ∃ q' ∈ (s.driveBus (e.bus w)).iq, q'.destReg = q.destReg ∧ q'.pc = q.pc := by
    intro q hq
    cases hf : (e.result w).fault with
    | true => exact ⟨q, by simpa [State.driveBus, IQEntry.bus, hf] using hq, rfl, rfl⟩
    | false => exact ⟨wakeEntry e.destReg (e.result w).value q, by simpa [State.driveBus, IQEntry.bus, hf] using ⟨q, hq, rfl⟩, rfl, rfl⟩
  rcases hp with ⟨x, hx, hdest, hpc⟩ | ⟨a, ha, hexc, hpc⟩
  · rcases List.mem_append.mp hx with hq | hq
    · obtain ⟨x', hx', hdest', hpc'⟩ := hwoken x hq
      exact .inl ⟨x', List.mem_append_left _ hx', hdest'.trans hdest, hpc'.symm ▸ hpc⟩
    · rcases List.mem_cons.mp hq with rfl | hq
      · have hf := hother.resolve_right fun hne => hne hdest.symm
        obtain ⟨a, ha, -, hapc⟩ := h.alEntry (List.mem_append_right _ (List.mem_cons_self (a := x) (l := rest)))
        refine .inr ⟨a.marked x.pc true, ?_, by simp [ALEntry.marked, hapc], by simpa [hapc] using hpc⟩
        rw [driveBus_al, ← hf]
        exact List.mem_map_of_mem ha
      · exact .inl ⟨x, List.mem_append_right _ hq, hdest, hpc⟩
  · refine .inr ⟨a, ?_, hexc, hpc⟩
    rw [driveBus_al, ← h.marked_of_exc (e.bus w).fault ha hexc]
    exact List.mem_map_of_mem ha

/-- An operand waits past a broadcast for a producer other than the one broadcast (R205). -/
theorem InFlight.awaits_wakeOperand (h : InFlight s (e :: rest)) (w : Nat) {pc : Nat} {o : Operand} (v : Nat) (ho : s.AwaitsPending (e :: rest) pc o) :
    (s.driveBus (e.bus w)).AwaitsPending rest pc (wakeOperand e.destReg v o) := by
  intro hwaits
  obtain ⟨hsame, htag⟩ := wakeOperand_waits hwaits
  rw [hsame] at hwaits ⊢
  exact h.pending_driveBus w (ho hwaits) (.inr htag)

/-- One entry fewer waits or is issued, and one fewer of the Active List is not `Done` (R202). -/
theorem InFlight.waiting_driveBus (h : InFlight s (e :: rest)) (w : Nat) :
    (((s.driveBus (e.bus w)).iq ++ rest).map IQEntry.pc).Perm (((s.driveBus (e.bus w)).al.filter fun a => !a.done).map ALEntry.pc) := by
  have hiq : (s.driveBus (e.bus w)).iq.map IQEntry.pc = s.iq.map IQEntry.pc := by
    cases hf : (e.result w).fault <;> simp [State.driveBus, IQEntry.bus, hf, Function.comp_def]
  have hnodup : ((s.al.filter fun a => !a.done).map ALEntry.pc).Nodup := h.nodup.sublist (List.filter_sublist.map _)
  have hfewer : ((s.driveBus (e.bus w)).al.filter fun a => !a.done).map ALEntry.pc = ((s.al.filter fun a => !a.done).map ALEntry.pc).erase e.pc := by
    rw [driveBus_al, filter_map_marked, hnodup.erase_eq_filter, List.filter_map]
    rfl
  have hsplit : (e.pc :: (s.iq ++ rest).map IQEntry.pc).Perm ((s.al.filter fun a => !a.done).map ALEntry.pc) := by
    refine List.Perm.trans ?_ h.waiting
    simpa using List.perm_middle.symm
  rw [List.map_append, hiq, hfewer, ← List.map_append]
  exact (List.cons_perm_iff_perm_erase.mp hsplit).2

/-- The oldest issued entry executed keeps what is in flight (R202 to R205). -/
theorem InFlight.driveBus (h : InFlight s (e :: rest)) (w : Nat) : InFlight (s.driveBus (e.bus w)) rest where
  ordered := by
    rw [driveBus_al_pcs]
    exact h.ordered
  faultDone := by
    rw [driveBus_al]
    refine List.forall_mem_map.mpr fun a ha => ?_
    unfold ALEntry.marked
    split
    · exact fun _ => rfl
    · exact h.faultDone a ha
  waiting := h.waiting_driveBus w
  operands := by
    cases hf : (e.result w).fault with
    | true =>
      have hiq : (s.driveBus (e.bus w)).iq = s.iq := by simp [State.driveBus, IQEntry.bus, hf]
      rw [hiq]
      intro q hq
      obtain ⟨ha, hb⟩ := h.operands q hq
      exact ⟨fun hr => h.pending_driveBus w (ha hr) (.inl hf), fun hr => h.pending_driveBus w (hb hr) (.inl hf)⟩
    | false =>
      have hiq : (s.driveBus (e.bus w)).iq = s.iq.map (wakeEntry e.destReg (e.result w).value) := by simp [State.driveBus, IQEntry.bus, hf]
      rw [hiq]
      refine List.forall_mem_map.mpr fun q hq => ?_
      obtain ⟨ha, hb⟩ := h.operands q hq
      rw [wakeEntry_operandA, wakeEntry_operandB]
      exact ⟨h.awaits_wakeOperand w _ ha, h.awaits_wakeOperand w _ hb⟩
  busy := by
    intro p hp
    have hstill : s.isBusy p = true ∧ ((e.result w).fault = true ∨ p ≠ e.destReg) := by
      cases hf : (e.result w).fault with
      | true => exact ⟨by simpa [State.isBusy, State.driveBus, IQEntry.bus, hf] using hp, .inl rfl⟩
      | false =>
        have hcleared : (s.driveBus (e.bus w)).isBusy p = (s.writeBusy e.destReg false).isBusy p :=
          isBusy_congr _ _ (by simp [State.driveBus, IQEntry.bus, hf]) p
        rw [hcleared, isBusy_writeBusy] at hp
        split_ifs at hp with hdest
        exact ⟨hp, .inr hdest⟩
    obtain ⟨hbusy, hother⟩ := hstill
    obtain ⟨pc, hpc⟩ := h.busy p hbusy
    exact ⟨pc, h.pending_driveBus w hpc hother⟩
  count := by
    have hfl : (s.driveBus (e.bus w)).fl = s.fl := rfl
    rw [driveBus_al, List.length_map, hfl]
    exact h.count

end

/-- The issued entries executed one after another keep what is in flight (R200). -/
theorem InFlight.executeLoop (latch : List IQEntry) {s : State} (h : InFlight s latch) :
    ∃ t, Machine.executeLoop latch s = .next t ∧ InFlight t [] ∧ t.al.map ALEntry.pc = s.al.map ALEntry.pc ∧ t.iq.length = s.iq.length := by
  induction latch generalizing s with
  | nil => exact ⟨s, rfl, h, rfl, rfl⟩
  | cons e rest ih =>
    obtain ⟨a, ha, -, hpc⟩ := h.alEntry (List.mem_append_right _ (List.mem_cons_self (a := e) (l := rest)))
    have hhas : e.pc ∈ s.al.map ALEntry.pc := List.mem_map.mpr ⟨a, ha, hpc⟩
    obtain ⟨t, ht, hkept, hal, hiq⟩ := ih (h.driveBus s.params.xlen)
    refine ⟨t, ?_, hkept, hal.trans (driveBus_al_pcs _ _), hiq.trans ?_⟩
    · rw [Machine.executeLoop, executeOne_eq_driveBus e s h.nodup hhas, andThen_next, ht]
    · cases hf : (e.result s.params.xlen).fault <;> simp [State.driveBus, IQEntry.bus, hf]

/-- Execute answers, and keeps what is in flight: the latch is executed, and then nothing is issued (R200, R202). -/
theorem InFlight.execute {s : State} (h : InFlight s s.execLatch) :
    ∃ t, Machine.execute s = .next t ∧ InFlight t [] ∧ t.al.map ALEntry.pc = s.al.map ALEntry.pc ∧ t.iq.length = s.iq.length ∧ (s.execLatch = [] → t = s) := by
  obtain ⟨t, ht, hkept, hal, hiq⟩ := InFlight.executeLoop s.execLatch h
  refine ⟨t.withExecLatch [], by rw [Machine.execute, ht, andThen_next], hkept.congr rfl rfl rfl rfl, hal, hiq, fun hempty => ?_⟩
  rw [hempty] at ht
  cases ht
  rw [← hempty]
  rfl

/-! ### Issue -/

/-- The scan parts the queue: what it selects and what it keeps are the queue's entries (R181, R182). -/
theorem selectReady_perm (n : Nat) (q : List IQEntry) : ((selectReady n q).2 ++ (selectReady n q).1).Perm q := by
  induction q generalizing n with
  | nil => cases n <;> exact List.Perm.refl _
  | cons e rest ih =>
    cases n with
    | zero => simp [selectReady_zero]
    | succ n =>
      cases hready : e.ready with
      | true =>
        simp only [selectReady, hready, if_true]
        exact List.perm_middle.trans ((ih n).cons e)
      | false =>
        simp only [selectReady, hready]
        exact (ih (n + 1)).cons e

/-- A scan with room that selects nothing has found nothing ready (R180, R181). -/
theorem not_ready_of_selectReady_eq_nil (n : Nat) (q : List IQEntry) (h : (selectReady (n + 1) q).1 = []) : ∀ e ∈ q, e.ready = false := by
  induction q with
  | nil => simp
  | cons e rest ih =>
    cases hready : e.ready with
    | true => simp [selectReady, hready] at h
    | false =>
      simp only [selectReady, hready] at h
      exact List.forall_mem_cons.mpr ⟨hready, ih h⟩

/-- Issue keeps what is in flight (R186). -/
theorem InFlight.issue {s : State} (h : InFlight s []) : InFlight (issue s) (issue s).execLatch := by
  have hperm : ((Machine.issue s).iq ++ (Machine.issue s).execLatch).Perm (s.iq ++ []) := by
    rw [List.append_nil]
    exact selectReady_perm Config.width s.iq
  have hpending : ∀ p pc, s.Pending [] p pc → (Machine.issue s).Pending (Machine.issue s).execLatch p pc := fun p pc =>
    pending_mono hperm.symm.subset fun _ ha _ => ha
  refine { ordered := h.ordered, faultDone := h.faultDone, waiting := (hperm.map _).trans h.waiting, operands := fun q hq => ?operands,
           busy := fun p hp => ?busy, count := h.count }
  case operands =>
    have hmem : q ∈ s.iq := (List.append_nil s.iq) ▸ hperm.subset (List.mem_append_left _ hq)
    obtain ⟨hA, hB⟩ := h.operands q hmem
    exact ⟨fun hr => hpending _ _ (hA hr), fun hr => hpending _ _ (hB hr)⟩
  case busy =>
    obtain ⟨pc, hpc⟩ := h.busy p hp
    exact ⟨pc, hpending p pc hpc⟩

/-! ### Rename/Dispatch -/

section
variable {s : State} {issued : List IQEntry}

/-- A source captured at dispatch waits only for a producer in flight (R161, R162). -/
theorem InFlight.registerOperand_awaits (h : InFlight s issued) {pc : Nat} (hpast : ∀ a ∈ s.al, a.pc < pc) (r : LReg) :
    s.AwaitsPending issued pc (registerOperand s r) := by
  intro hwaits
  have hbusy : s.isBusy (s.mapOf r) = true := by simpa [registerOperand, physicalOperand] using hwaits
  obtain ⟨pc', hpc'⟩ := h.busy _ hbusy
  have htag : (registerOperand s r).tag = s.mapOf r := by simp [registerOperand, physicalOperand, hbusy]
  rw [htag]
  exact h.pending_of_past hpc' hpast

theorem InFlight.operandB_awaits (h : InFlight s issued) {pc : Nat} (hpast : ∀ a ∈ s.al, a.pc < pc) (src : OperandB) :
    s.AwaitsPending issued pc (operandB s src) := by
  cases src with
  | reg r => exact h.registerOperand_awaits hpast r
  | imm v => exact fun hwaits => by simp [operandB, immediateOperand] at hwaits

end

end Sys2Proof.Machine

/-! Every run of a decodable program ends (`40_cycle.md` rules R120, R124, R128, R129, `70_reset_and_hazards.md` rule R327): each step leaves less to do. -/

namespace Sys2Proof.Machine

/-! ### Rename/Dispatch and Fetch/Decode keep what is in flight -/

section
variable {s : State} {issued : List IQEntry}

/-- One entry dispatched keeps what is in flight, when it is younger than the Active List (R164, R165). -/
theorem InFlight.dispatchEntry (h : InFlight s issued) {e : DBEntry} (hpast : ∀ a ∈ s.al, a.pc < e.pc) : InFlight (s.dispatchEntry e) issued := by
  cases hfl : s.fl with
  | nil =>
    rw [dispatchEntry_of_fl_nil s e hfl]
    exact h.congr rfl rfl rfl rfl
  | cons p free =>
    rw [dispatchEntry_of_fl_cons s e hfl]
    set a := newALEntry (s.withDb [e]) e.instr.rd with ha
    set q := newIQEntry (s.withDb [e]) e.instr.op e.instr.rs1 e.instr.srcB p
    set t := ((s.withDb [e]).allocate e.instr.op e.instr.rd e.instr.rs1 e.instr.srcB p free).withDb []
    have hal : t.al = s.al ++ [a] := rfl
    have hiq : t.iq = s.iq ++ [q] := rfl
    have hpending : ∀ p' pc, s.Pending issued p' pc → t.Pending issued p' pc := by
      refine fun p' pc => pending_mono ?_ fun b hb _ => List.mem_append_left _ hb
      rw [hiq]
      exact List.append_subset.mpr ⟨fun x hx => by simp [hx], fun x hx => by simp [hx]⟩
    refine { ordered := ?ordered, faultDone := ?faultDone, waiting := ?waiting, operands := ?operands, busy := ?busy, count := ?count }
    case ordered =>
      have hapc : a.pc = e.pc := rfl
      rw [hal, List.map_append]
      refine List.pairwise_append.mpr ⟨h.ordered, List.pairwise_singleton _ _, ?_⟩
      simpa [hapc] using hpast
    case faultDone =>
      rw [hal]
      exact List.forall_mem_append.mpr ⟨h.faultDone, by simp [ha, newALEntry]⟩
    case waiting =>
      have hwaits : (t.al.filter fun a => !a.done).map ALEntry.pc = (s.al.filter fun a => !a.done).map ALEntry.pc ++ [e.pc] := by
        rw [hal, List.filter_append, List.map_append]
        rfl
      have hperm : (t.iq ++ issued).Perm ((s.iq ++ issued) ++ [q]) := by
        rw [hiq, List.append_assoc, List.append_assoc]
        exact List.perm_append_comm.append_left _
      rw [hwaits]
      refine (hperm.map _).trans ?_
      rw [List.map_append]
      exact h.waiting.append_right _
    case operands =>
      rw [hiq]
      refine List.forall_mem_append.mpr ⟨fun x hx => ?_, List.forall_mem_singleton.mpr ?_⟩
      · obtain ⟨hA, hB⟩ := h.operands x hx
        exact ⟨fun hr => hpending _ _ (hA hr), fun hr => hpending _ _ (hB hr)⟩
      · exact ⟨fun hr => hpending _ _ (h.registerOperand_awaits hpast e.instr.rs1 hr),
          fun hr => hpending _ _ (h.operandB_awaits hpast e.instr.srcB hr)⟩
    case busy =>
      intro p' hp'
      have hset : t.isBusy p' = if p' = p then true else s.isBusy p' :=
        (isBusy_congr (s.writeBusy p true) t rfl p').trans (isBusy_writeBusy s p p' true)
      by_cases hnew : p' = p
      · exact ⟨e.pc + 1, .inl ⟨q, by simp [hiq], hnew.symm, Nat.lt_succ_self _⟩⟩
      · rw [hset, if_neg hnew] at hp'
        obtain ⟨pc, hpc⟩ := h.busy p' hp'
        exact ⟨pc, hpending _ _ hpc⟩
    case count =>
      have hcount := h.count
      have hfree : t.fl = free := rfl
      rw [hal, hfree, List.length_append, List.length_singleton]
      rw [hfl, List.length_cons] at hcount
      omega

end

/-- The Active List grows by the entry's PC, and the Issue Queue by one, when a register is free (R163, R165). -/
theorem dispatchEntry_grows (s : State) (e : DBEntry) :
    (s.dispatchEntry e).al.map ALEntry.pc = s.al.map ALEntry.pc ++ ([e].take s.fl.length).map DBEntry.pc ∧
      (s.dispatchEntry e).iq.length = s.iq.length + min 1 s.fl.length := by
  cases hfl : s.fl with
  | nil => simp [dispatchEntry_of_fl_nil s e hfl]
  | cons p free => simp [dispatchEntry_of_fl_cons s e hfl, State.allocate, newALEntry, State.presentedPC]

/-- The batch's PCs join the Active List's as far as the Free List reaches (R163, R165). -/
theorem foldl_dispatchEntry_grows (batch : List DBEntry) (s : State) :
    let t := batch.foldl State.dispatchEntry s
    t.al.map ALEntry.pc = s.al.map ALEntry.pc ++ (batch.take s.fl.length).map DBEntry.pc ∧
      t.iq.length = s.iq.length + min batch.length s.fl.length := by
  induction batch generalizing s with
  | nil => simp
  | cons e rest ih =>
    obtain ⟨hal, hiq⟩ := dispatchEntry_grows s e
    obtain ⟨hal', hiq'⟩ := ih (s.dispatchEntry e)
    rw [dispatchEntry_fl] at hal' hiq'
    refine ⟨?_, ?_⟩
    · rw [List.foldl_cons, hal', hal]
      cases s.fl <;> simp
    · rw [List.foldl_cons, hiq', hiq]
      cases s.fl with
      | nil => simp
      | cons p free =>
        simp only [List.length_cons, List.tail_cons]
        omega

/-- A batch in program order behind the Active List keeps what is in flight. -/
theorem InFlight.foldl_dispatchEntry {issued : List IQEntry} (batch : List DBEntry) {s : State} (h : InFlight s issued)
    (hordered : (s.al.map ALEntry.pc ++ batch.map DBEntry.pc).Pairwise (· < ·)) : InFlight (batch.foldl State.dispatchEntry s) issued := by
  induction batch generalizing s with
  | nil => exact h
  | cons e rest ih =>
    obtain ⟨-, -, hacross⟩ := List.pairwise_append.mp hordered
    have hpast : ∀ a ∈ s.al, a.pc < e.pc := fun a ha => hacross a.pc (List.mem_map_of_mem ha) e.pc List.mem_cons_self
    refine ih (h.dispatchEntry hpast) (hordered.sublist ?_)
    rw [(dispatchEntry_grows s e).1, List.append_assoc, ← List.map_append]
    exact List.Sublist.append_left ((List.Sublist.append_right (List.take_sublist s.fl.length [e]) rest).map _) _

/-! ### The work left -/

/-- The stages the instructions of a RUN state have before them: five for one not yet fetched, four in the decode buffer, three in the Issue Queue, two in the latch, and the
retirement for all in the Active List (R123). -/
def State.work (s : State) : Nat := 5 * (s.progLen - s.pc) + 4 * s.db.length + 2 * s.iq.length + s.execLatch.length + s.al.length

/-- The program is all decodable (R129). -/
def State.Decodable (s : State) : Prop := ∀ item ∈ s.prog, ∃ i, decodeItem s.params.xlen item = .ok i

/-- What is in flight or decoded is in program order, and `PC` is past it (R323). -/
def State.PCPast (s : State) : Prop := (s.orderedPCs ++ [s.pc]).Pairwise (· < ·)

/-- No stage after Commit has anything to move. -/
def State.Stuck (s : State) : Prop :=
  s.execLatch = [] ∧ (∀ e ∈ s.iq, e.ready = false) ∧ (s.db = [] ∨ s.fl = []) ∧ (s.db = [] → s.progLen ≤ s.pc)

/-- Dispatch takes the batch as far as the Free List reaches. -/
theorem InFlight.dispatch {s : State} (h : InFlight s s.execLatch) (hordered : s.orderedPCs.Pairwise (· < ·)) :
    ∃ t, dispatch s = .next t ∧ InFlight t t.execLatch ∧ t.orderedPCs.Sublist s.orderedPCs ∧ t.work + min s.db.length s.fl.length ≤ s.work ∧
      (s.db = [] → t.db = []) ∧ t.pc = s.pc ∧ t.prog = s.prog ∧ t.params = s.params := by
  refine ⟨_, dispatch_eq s, ?_⟩
  obtain ⟨-, hpc, hlatch, -, -, -, hprog, hparams, -⟩ := dispatchLoop_frame s.db [] s _ (dispatch_eq s)
  obtain ⟨hal, hiq⟩ := foldl_dispatchEntry_grows s.db (s.withDb [])
  have hkept := InFlight.foldl_dispatchEntry s.db (s := s.withDb []) (h.congr rfl rfl rfl rfl) hordered
  set u := s.db.foldl State.dispatchEntry (s.withDb [])
  have hstalled : (s.stalledBuffer (s.db.drop s.fl.length)).Sublist (s.db.drop s.fl.length) := by
    unfold State.stalledBuffer
    split
    · exact List.Sublist.refl _
    · exact List.nil_sublist _
  simp only [withDb_pc, withDb_execLatch, withDb_prog, withDb_params] at hpc hlatch hprog hparams
  refine ⟨?_, ?_, ?_, ?_, hpc, hprog, hparams⟩
  · rw [withDb_execLatch, hlatch]
    exact hkept.congr rfl rfl rfl rfl
  · have hbatch : s.db.map DBEntry.pc = (s.db.take s.fl.length).map DBEntry.pc ++ (s.db.drop s.fl.length).map DBEntry.pc := by
      rw [← List.map_append, List.take_append_drop]
    simp only [State.orderedPCs, withDb_al, withDb_db, hal, withDb_fl, List.append_assoc]
    rw [hbatch]
    exact ((hstalled.map _).append_left _).append_left _
  · have hlength := congrArg List.length hal
    have hleft := hstalled.length_le
    simp only [List.length_append, List.length_map, List.length_take, List.length_drop, withDb_al, withDb_fl, withDb_iq] at hlength hleft hiq
    simp only [State.work, State.progLen, withDb_pc, withDb_prog, withDb_db, withDb_iq, withDb_execLatch, withDb_al, hpc, hprog, hlatch, hlength, hiq]
    omega
  · intro hempty
    rw [withDb_db]
    exact List.sublist_nil.mp (hstalled.trans (by simp [hempty]))

theorem fetchCount_eq_min (pc n : Nat) : fetchCount pc n = min 4 (n - pc) := by
  unfold fetchCount
  split
  · rfl
  · omega

/-- Fetch/Decode answers in a decodable program, and moves what it reads from the program to the decode buffer (R142, R143). -/
theorem fetchDecode_moves {s : State} (hdecodable : s.Decodable) :
    ∃ t, fetchDecode s = .next t ∧ t.work ≤ s.work ∧ (t.work = s.work → s.db = [] → s.progLen ≤ s.pc) ∧
      (InFlight s s.execLatch → InFlight t t.execLatch) ∧ (s.PCPast → t.PCPast) := by
  by_cases hdb : s.db = []
  · obtain ⟨batch, hbatch, hlength, hentries⟩ : ∃ batch, fetchFrom s.params.xlen s.prog (fetchCount s.pc s.progLen) s.pc = .ok batch ∧
        batch.length = fetchCount s.pc s.progLen ∧ ∀ (j : Nat) (e : DBEntry), batch[j]? = some e →
          e.pc = s.pc + j ∧ Memory.decodesTo s.params.xlen s.prog (s.pc + j) e.instr := by
      refine (fetchFrom_pc_cases s).resolve_right ?_
      rintro ⟨j, hj, hbad, -⟩
      have hin : s.pc + j < s.prog.length := by
        have hend := pc_add_fetchCount_le s.pc s.progLen (by omega)
        simp only [State.progLen] at hend hj
        omega
      obtain ⟨instr, hdecode⟩ := hdecodable _ (List.getElem_mem hin)
      exact hbad ⟨instr, _, List.getElem?_eq_getElem hin, hdecode⟩
    have hpcs : batch.map DBEntry.pc = List.range' s.pc (fetchCount s.pc s.progLen) := by
      refine List.ext_getElem (by simp [hlength]) fun j hj _ => ?_
      rw [List.length_map] at hj
      simpa using (hentries j _ (List.getElem?_eq_getElem hj)).1
    have hcount := fetchCount_eq_min s.pc s.progLen
    have hwork : ((s.withDb batch).withPc (s.pc + fetchCount s.pc s.progLen)).work + fetchCount s.pc s.progLen = s.work := by
      have hprog : ((s.withDb batch).withPc (s.pc + fetchCount s.pc s.progLen)).progLen = s.progLen := rfl
      simp only [State.work, hprog, hdb, withPc_pc, withPc_db, withDb_db, withPc_iq, withDb_iq, withPc_execLatch, withDb_execLatch, withPc_al, withDb_al,
        hlength, List.length_nil]
      omega
    have hnext : fetchDecode s = .next ((s.withDb batch).withPc (s.pc + fetchCount s.pc s.progLen)) := by simp [fetchDecode, hdb, hbatch]
    refine ⟨_, hnext, by omega, fun _ _ => by omega, fun h => h.congr rfl rfl rfl rfl, fun h => ?_⟩
    simp only [State.PCPast, State.orderedPCs, hdb, List.map_nil, List.append_nil] at h
    obtain ⟨hal, -, hpast⟩ := List.pairwise_append.mp h
    simp only [State.PCPast, State.orderedPCs, withPc_al, withDb_al, withPc_db, withDb_db, withPc_pc, hpcs, List.append_assoc]
    rw [← List.range'_1_concat]
    refine List.pairwise_append.mpr ⟨hal, List.pairwise_lt_range', fun x hx y hy => ?_⟩
    exact (hpast x hx s.pc (List.mem_singleton_self _)).trans_le (List.mem_range'_1.mp hy).1
  · exact ⟨s, by simp [fetchDecode, hdb], Nat.le_refl _, fun _ h => absurd h hdb, id, id⟩

/-- Execute and Issue answer, and move what they execute and what they issue on by one stage (R200, R181). -/
theorem InFlight.executeIssue {s : State} (h : InFlight s s.execLatch) :
    ∃ e, Machine.execute s = .next e ∧ InFlight (Machine.issue e) (Machine.issue e).execLatch ∧
      (Machine.issue e).work + s.execLatch.length + (Machine.issue e).execLatch.length = s.work ∧
      (s.execLatch = [] → (Machine.issue e).execLatch = [] → ∀ q ∈ s.iq, q.ready = false) ∧
      (Machine.issue e).orderedPCs = s.orderedPCs ∧ (Machine.issue e).db = s.db ∧ (Machine.issue e).fl = s.fl ∧ (Machine.issue e).pc = s.pc ∧
      (Machine.issue e).prog = s.prog ∧ (Machine.issue e).params = s.params := by
  obtain ⟨e, he, hkept, hal, hiq, hsame⟩ := h.execute
  obtain ⟨al, prf, busy, iq, hframe⟩ := execute_frame s e he
  have hdb : e.db = s.db := by rw [hframe]
  have hpc : e.pc = s.pc := by rw [hframe]
  have hprog : e.prog = s.prog := by rw [hframe]
  refine ⟨e, he, hkept.issue, ?_, fun hlatch hnone => ?_, ?_, hdb, by rw [issue_eq, hframe], hpc, hprog, by rw [issue_eq, hframe]⟩
  · have hparted := (selectReady_perm Config.width e.iq).length_eq
    have hlength := congrArg List.length hal
    rw [List.length_append] at hparted
    rw [List.length_map, List.length_map] at hlength
    simp only [State.work, State.progLen, issue_eq, hdb, hpc, hprog, hlength]
    omega
  · rw [hsame hlatch] at hnone
    exact not_ready_of_selectReady_eq_nil 3 s.iq hnone
  · simp only [State.orderedPCs, issue_eq, hdb, hal]

/-- The stages after Commit answer in a decodable program, leave no more work, and leave less unless they had nothing to move (R121). -/
theorem laterStages_moves {s : State} (h : InFlight s s.execLatch) (hordered : s.orderedPCs.Pairwise (· < ·)) (hdecodable : s.Decodable) :
    ∃ u, laterStages s = .next u ∧ u.work ≤ s.work ∧ (u.work = s.work → s.Stuck) ∧ InFlight u u.execLatch ∧ (s.PCPast → u.PCPast) := by
  obtain ⟨e, he, hissued, hwork, hready, hpcs, hdb, hfl, hpc, hprog, hparams⟩ := h.executeIssue
  obtain ⟨d, hd, hdispatched, hsub, hwork', hempty, hpc', hprog', hparams'⟩ := hissued.dispatch (hpcs ▸ hordered)
  have hdecodable' : d.Decodable := by
    rw [State.Decodable, hprog', hparams', hprog, hparams]
    exact hdecodable
  obtain ⟨u, hu, hwork'', hfetched, hkept, hpast⟩ := fetchDecode_moves hdecodable'
  rw [hpcs] at hsub
  rw [hdb, hfl] at hwork'
  rw [hpc] at hpc'
  refine ⟨u, by rw [laterStages, he, andThen_next, hd, andThen_next, hu], by omega, fun hsame => ?_, hkept hdispatched, fun hbefore => ?_⟩
  · have hlatch : s.execLatch = [] := List.length_eq_zero_iff.mp (by omega)
    have hselected : (issue e).execLatch = [] := List.length_eq_zero_iff.mp (by omega)
    have hnone : s.db.length = 0 ∨ s.fl.length = 0 := by omega
    refine ⟨hlatch, hready hlatch hselected, by simpa only [List.length_eq_zero_iff] using hnone, fun hnil => ?_⟩
    have hend := hfetched (by omega) (hempty (hdb.trans hnil))
    simpa only [State.progLen, hprog', hprog, hpc'] using hend
  · refine hpast (List.Pairwise.sublist ?_ hbefore)
    rw [hpc']
    exact hsub.append_right _

/-! ### The RUN cycle -/

/-- Where Commit finds no fault, the entry it leaves at the head is not `Done` (R254). -/
theorem commitLoop_head_waits (al : List ALEntry) (s : State) (h : (commitLoop al (s.withAl al)).2 = false) :
    ∀ a rest, (commitLoop al (s.withAl al)).1.al = a :: rest → a.done = false := by
  induction al generalizing s with
  | nil => simp [commitLoop_nil]
  | cons b others ih =>
    cases hexc : b.exc with
    | true => simp [commitLoop_fault _ _ _ hexc] at h
    | false =>
      cases hdone : b.done with
      | false =>
        rw [commitLoop_wait _ _ _ hexc hdone]
        rintro a rest hal
        cases hal
        exact hdone
      | true =>
        rw [commitLoop_retire _ _ _ hexc hdone] at h ⊢
        exact ih (s.pushFree b.oldDest) h

/-- With nothing issued, the oldest instruction in flight has nothing older to wait for (R326), and with none in flight a register is free (R320), so the stages after
Commit have something to move until the run is drained. -/
theorem InFlight.not_stuck {s : State} (h : InFlight s s.execLatch) (hhead : ∀ a rest, s.al = a :: rest → a.done = false) (hgoes : s.drained = false) :
    ¬ s.Stuck := by
  rintro ⟨hlatch, hnoneReady, hbuffer, hfetch⟩
  have hcount := h.count
  rw [hlatch] at h
  cases hal : s.al with
  | nil =>
    have hfree : s.fl ≠ [] := fun hnil => by simp [hal, hnil] at hcount
    have hdb := hbuffer.resolve_right hfree
    have hdrained := (drained_iff s).mpr ⟨hfetch hdb, hdb, hal⟩
    rw [hgoes] at hdrained
    cases hdrained
  | cons a rest =>
    have holdest : ∀ b ∈ s.al, a.pc ≤ b.pc := by
      have hordered := h.ordered
      rw [hal, List.map_cons] at hordered
      rw [hal]
      exact List.forall_mem_cons.mpr ⟨Nat.le_refl _, fun b hb => (List.rel_of_pairwise_cons hordered (List.mem_map_of_mem hb)).le⟩
    have hwaiting : a.pc ∈ (s.iq ++ []).map IQEntry.pc := by
      refine h.waiting.symm.subset (List.mem_map_of_mem (List.mem_filter.mpr ⟨?_, ?_⟩))
      · rw [hal]
        exact List.mem_cons_self
      · simp [hhead a rest hal]
    obtain ⟨q, hq, hqpc⟩ := List.mem_map.mp hwaiting
    rw [List.append_nil] at hq
    have hnoneOlder : ∀ p, ¬ s.Pending [] p q.pc := by
      rintro p (⟨e, he, -, hpc⟩ | ⟨b, hb, -, hpc⟩)
      · obtain ⟨b, hb, -, hbpc⟩ := h.alEntry he
        have := holdest b hb
        omega
      · have := holdest b hb
        omega
    obtain ⟨hawaitsA, hawaitsB⟩ := h.operands q hq
    have hA : q.opAReady = true := by
      by_contra hwaits
      exact hnoneOlder _ (hawaitsA (Bool.not_eq_true _ ▸ hwaits))
    have hB : q.opBReady = true := by
      by_contra hwaits
      exact hnoneOlder _ (hawaitsB (Bool.not_eq_true _ ▸ hwaits))
    have hready := hnoneReady q hq
    simp [IQEntry.ready, hA, hB] at hready

/-- A cycle that Commit's fault does not cut short is its later stages (R121, R277). -/
theorem runCycle_of_laterStages {s u : State} (hgoes : (commit s).2 = false ∨ s.params.faultCycleCompletes = true)
    (hu : laterStages (commit s).1 = .next u) : runCycle s = .next (finishCycle (commit s).2 u) := by
  obtain ⟨-, -, -, -, -, -, hparams⟩ := commit_frame s
  rcases hgoes with h | h <;> simp [runCycle, h, hu, hparams]

/-- A fault cycle cut short ends on what Commit leaves (R277). -/
theorem runCycle_of_cut {s : State} (hfault : (commit s).2 = true) (hcut : s.params.faultCycleCompletes = false) :
    runCycle s = .next (finishCycle true (commit s).1) := by
  obtain ⟨-, -, -, -, -, -, hparams⟩ := commit_frame s
  simp [runCycle, hfault, hcut, hparams]

/-- Commit retires from the head and moves nothing else (R251, R253). -/
theorem commit_al_suffix (s : State) : (commit s).1.al <:+ s.al := by
  rw [commitBlockIsTheStage]
  exact List.drop_suffix _ _

theorem commit_orderedPCs_sublist (s : State) : (commit s).1.orderedPCs.Sublist s.orderedPCs := by
  obtain ⟨hdb, -⟩ := commit_frame s
  rw [State.orderedPCs, State.orderedPCs, hdb]
  exact ((commit_al_suffix s).sublist.map _).append_right _

/-- Commit leaves no more work: what retires is done with, and from the fault vector nothing is fetched (R72, R251, R253). -/
theorem commit_work_le {s : State} (hfits : programFits s.prog) : (commit s).1.work + s.al.length ≤ s.work + (commit s).1.al.length := by
  obtain ⟨hdb, -, -, hlatch, -, hprog, -⟩ := commit_frame s
  have hiq : (commit s).1.iq = s.iq := by
    rw [commitBlockIsTheStage]
    rfl
  have hlength : s.prog.length ≤ 65536 := hfits
  have hpc : (commit s).1.pc = s.pc ∨ (commit s).1.pc = 65536 := by
    cases hf : (commit s).2 with
    | false =>
      obtain ⟨hstays, -⟩ := commit_of_noFault s hf
      exact .inl hstays
    | true =>
      obtain ⟨-, hvector, -⟩ := commit_of_fault s hf
      exact .inr hvector
  simp only [State.work, State.progLen, hdb, hlatch, hprog, hiq]
  rcases hpc with hpc | hpc <;> rw [hpc] <;> omega

/-- Not over after Commit either, when Commit retired nothing. -/
theorem commit_drained_of_al_length {s : State} (hfault : (commit s).2 = false) (hsame : (commit s).1.al.length = s.al.length) :
    (commit s).1.drained = s.drained := by
  obtain ⟨hdb, -, -, -, -, hprog, -⟩ := commit_frame s
  obtain ⟨hpc, -⟩ := commit_of_noFault s hfault
  have hal : (commit s).1.al = s.al := (commit_al_suffix s).eq_of_length hsame
  rw [State.drained, State.drained, State.progLen, hdb, hprog, hpc, hal]
  rfl

/-! ### The run -/

/-- What a run of a decodable program keeps until it is over (R323, R128). -/
structure State.OnCourse (s : State) : Prop where
  decodable : s.Decodable
  fits : programFits s.prog
  noError : s.mode ≠ .error
  inFlight : s.mode = .run → InFlight s s.execLatch
  pcPast : s.mode = .run → s.PCPast

/-- The steps a state has before it at most: in RUN one for each stage left, and four for the fault cycle and the end of a recovery; in recovery one for each entry left, and the closing
steps (R120, R280, R281). -/
def State.stepsLeft (s : State) : Nat :=
  match s.mode with
  | .run => s.work + 4
  | .recover => s.al.length + 3
  | .recoverFinal => 2
  | .recoverClear => 1
  | .done => 0
  | .error => 0

section
variable {s : State}

/-- A step from a state on course to one that has what RUN asks for, where it is in RUN, stays on course. -/
theorem State.OnCourse.of_step (h : s.OnCourse) {t : State} (ht : step s = .next t) (hflight : t.mode = .run → InFlight t t.execLatch)
    (hpast : t.mode = .run → t.PCPast) : t.OnCourse := by
  obtain ⟨hprog, hparams⟩ := launchInputsStayFixed s t ht
  refine ⟨?_, hprog ▸ h.fits, fun herror => ?_, hflight, hpast⟩
  · rw [State.Decodable, hprog, hparams]
    exact h.decodable
  · rcases modeFollowsTheRun s t ht with ⟨-, hm⟩ | ⟨-, hm⟩ | ⟨-, hm⟩ | ⟨-, hm⟩ <;> rw [herror] at hm
    · split_ifs at hm
    · split_ifs at hm
    · cases hm
    · cases hm

/-- A RUN cycle answers and brings the run nearer to its end. -/
theorem State.OnCourse.runCycle (h : s.OnCourse) (hrun : s.mode = .run) (hgoes : s.drained = false) :
    ∃ t, Machine.runCycle s = .next t ∧ t.stepsLeft < s.stepsLeft ∧ (t.mode = .run → InFlight t t.execLatch ∧ t.PCPast) := by
  obtain ⟨hdb, -, -, hlatch, hmode, hprog, hparams⟩ := commit_frame s
  have hleft : s.stepsLeft = s.work + 4 := by rw [State.stepsLeft, hrun]
  have hflight : InFlight (commit s).1 (commit s).1.execLatch := hlatch.symm ▸ (h.inFlight hrun).commit
  have hordered : (commit s).1.orderedPCs.Pairwise (· < ·) :=
    (List.pairwise_append.mp (h.pcPast hrun)).1.sublist (commit_orderedPCs_sublist s)
  have hdecodable : (commit s).1.Decodable := by
    rw [State.Decodable, hprog, hparams]
    exact h.decodable
  have hwork := commit_work_le h.fits
  have hretired := (commit_al_suffix s).length_le
  obtain ⟨u, hu, hwork', hstuck, hkept, hpast⟩ := laterStages_moves hflight hordered hdecodable
  obtain ⟨-, -, humode, -⟩ := laterStages_frame hu
  cases hf : (commit s).2 with
  | false =>
    refine ⟨_, runCycle_of_laterStages (.inl hf) hu, ?_, fun _ => ⟨?_, ?_⟩⟩
    · have hless : u.work ≠ s.work := fun hsame => by
        have hstays := commit_drained_of_al_length hf (by omega)
        exact hflight.not_stuck (commitLoop_head_waits s.al s hf) (hstays.trans hgoes) (hstuck (by omega))
      have hfinished : (finishCycle (commit s).2 u).stepsLeft = u.work + 4 := by
        simp only [hf, finishCycle_eq, State.stepsLeft, humode, hmode, hrun]
        rfl
      omega
    · rw [hf]
      exact hkept.congr rfl rfl rfl rfl
    · rw [hf]
      refine hpast (List.Pairwise.sublist ?_ (h.pcPast hrun))
      rw [(commit_of_noFault s hf).1]
      exact (commit_orderedPCs_sublist s).append_right _
  | true =>
    have hrecover : ∀ v : State, v.al.length ≤ s.work → (finishCycle true v).stepsLeft < s.stepsLeft ∧
        ((finishCycle true v).mode = .run → InFlight (finishCycle true v) (finishCycle true v).execLatch ∧ (finishCycle true v).PCPast) := by
      intro v hv
      have hfinished : (finishCycle true v).stepsLeft = v.al.length + 3 := rfl
      exact ⟨by omega, fun hmode => by cases hmode⟩
    cases hc : s.params.faultCycleCompletes with
    | false => exact ⟨_, runCycle_of_cut hf hc, hrecover _ (by simp only [State.work]; omega)⟩
    | true =>
      refine ⟨_, runCycle_of_laterStages (.inr hc) hu, ?_⟩
      rw [hf]
      refine hrecover u ?_
      have hal : u.al.length ≤ u.work := by
        simp only [State.work]
        omega
      omega

/-- A RECOVER step squashes at least one entry, or goes to the closing steps (R281). -/
theorem recoverStep_stepsLeft (hmode : s.mode = .recover) : (recoverStep s).stepsLeft < s.stepsLeft := by
  have hleft : s.stepsLeft = s.al.length + 3 := by rw [State.stepsLeft, hmode]
  have hal : (recoverStep s).al.length = s.al.length - 4 := by
    rw [recoverStep_eq]
    change (squashTail 4 (s.withIq [])).al.length = _
    rw [squashTail_al, List.length_take, withIq_al]
    omega
  have hnext := recoverStep_mode s
  by_cases hfew : s.al.length ≤ 4
  · rw [if_pos hfew] at hnext
    have hleft' : (recoverStep s).stepsLeft = 2 := by rw [State.stepsLeft, hnext]
    omega
  · rw [if_neg hfew, hmode] at hnext
    have hleft' : (recoverStep s).stepsLeft = (recoverStep s).al.length + 3 := by rw [State.stepsLeft, hnext]
    omega

/-- Until the run is over each step answers, stays on course and leaves fewer steps to go (R128, R129). -/
theorem State.OnCourse.step (h : s.OnCourse) (hgoes : s.mode ≠ .done) : ∃ t, Machine.step s = .next t ∧ t.OnCourse ∧ t.stepsLeft < s.stepsLeft := by
  have hkept : ∀ t, Machine.step s = .next t → (t.mode = .run → InFlight t t.execLatch ∧ t.PCPast) → t.OnCourse := fun t ht hrun =>
    h.of_step ht (fun hm => (hrun hm).1) fun hm => (hrun hm).2
  cases hm : s.mode with
  | run =>
    cases hd : s.drained with
    | true =>
      have ht : Machine.step s = .next (s.withMode .done) := by simp [Machine.step, hm, runStep, hd]
      refine ⟨_, ht, hkept _ ht (fun hrun => by cases hrun), ?_⟩
      rw [State.stepsLeft, State.stepsLeft, hm]
      exact Nat.succ_pos _
    | false =>
      obtain ⟨t, hc, hless, hrun⟩ := h.runCycle hm hd
      have ht : Machine.step s = .next t := by simp [Machine.step, hm, runStep, hd, hc]
      exact ⟨t, ht, hkept t ht hrun, hless⟩
  | recover =>
    have ht : Machine.step s = .next (recoverStep s) := by simp [Machine.step, hm]
    refine ⟨_, ht, hkept _ ht fun hrun => ?_, recoverStep_stepsLeft hm⟩
    rw [recoverStep_mode, hm] at hrun
    split_ifs at hrun
  | recoverFinal =>
    have ht : Machine.step s = .next (recoverFinalStep s) := by simp [Machine.step, hm]
    refine ⟨_, ht, hkept _ ht (fun hrun => by cases hrun), ?_⟩
    rw [State.stepsLeft, State.stepsLeft, hm]
    exact Nat.lt_succ_self 1
  | recoverClear =>
    have ht : Machine.step s = .next (recoverClearStep s) := by simp [Machine.step, hm]
    refine ⟨_, ht, hkept _ ht (fun hrun => by cases hrun), ?_⟩
    rw [State.stepsLeft, State.stepsLeft, hm]
    exact Nat.one_pos
  | done => exact absurd hm hgoes
  | error => exact absurd hm h.noError

end

/-- A run of one step more goes on from the step's next state. -/
theorem core_run_succ {s u : State} (k : Nat) (h : step s = .next u) : Host.Core.run Sys2Proof.core (k + 1) s = Host.Core.run Sys2Proof.core k u := by
  have hstep : Sys2Proof.core.step s = .next u := h
  simp only [Host.Core.run, hstep]

/-- A run on course is over within the steps it has left (R129). -/
theorem State.OnCourse.reaches_done (n : Nat) {s : State} (h : s.OnCourse) (hn : s.stepsLeft ≤ n) :
    ∃ k t, k ≤ n ∧ Host.Core.run Sys2Proof.core k s = .next t ∧ t.mode = .done := by
  induction n generalizing s with
  | zero =>
    by_cases hdone : s.mode = .done
    · exact ⟨0, s, Nat.le_refl _, rfl, hdone⟩
    · obtain ⟨t, -, -, hless⟩ := h.step hdone
      omega
  | succ n ih =>
    by_cases hdone : s.mode = .done
    · exact ⟨0, s, Nat.zero_le _, rfl, hdone⟩
    · obtain ⟨u, hu, hkept, hless⟩ := h.step hdone
      obtain ⟨k, t, hk, ht, hend⟩ := ih hkept (by omega)
      exact ⟨k + 1, t, by omega, (core_run_succ k hu).trans ht, hend⟩

/-- Nothing is in flight after a launch (R310). -/
theorem inFlight_launched (inp : LaunchInput) : InFlight (State.launched inp) [] := by
  have hidle : ∀ p, (State.launched inp).isBusy p = false := fun p => Vector.getElem_replicate _
  refine ⟨List.Pairwise.nil, by simp [State.launched, State.afterReset], List.Perm.refl _, by simp [State.launched, State.afterReset], fun p hp => ?_, rfl⟩
  rw [hidle p] at hp
  cases hp

/-- Settles O59: a launch has `5 N + 4` steps left at most, and every step until `DONE` takes one. -/
theorem everyDecodableRunEnds : Obligations.EveryDecodableRunEnds := by
  unfold Obligations.EveryDecodableRunEnds
  intro inp haccepted hdecodable
  have honCourse : (State.launched inp).OnCourse :=
    ⟨hdecodable, haccepted.1, by simp [State.launched, State.afterReset], fun _ => inFlight_launched inp, fun _ => List.pairwise_singleton _ _⟩
  exact honCourse.reaches_done _ (show 5 * (inp.prog.length - 0) + 4 ≤ 5 * inp.prog.length + 11 by omega)

end Sys2Proof.Machine

/-! What an enabled fetch reads (`41_fetch_decode.md` rules R141 to R144): the next locations as a batch when they all decode, else the error at the first
that does not. -/

namespace Sys2Proof.Machine

theorem fetchDecode_of_db_ne_nil {s : State} (hdb : s.db ≠ []) : fetchDecode s = .next s := by
  simp [fetchDecode, hdb]

/-- R142, R143: the batch read becomes the decode buffer, and `PC` advances past it. -/
theorem fetchDecode_of_fetchFrom_ok {s : State} {batch : List DBEntry} (hdb : s.db = [])
    (hbatch : fetchFrom s.params.xlen s.prog (fetchCount s.pc s.progLen) s.pc = .ok batch) :
    fetchDecode s = .next ((s.withDb batch).withPc (s.pc + fetchCount s.pc s.progLen)) := by
  simp [fetchDecode, hdb, hbatch]

theorem fetchDecode_of_fetchFrom_error {s : State} {r : Fault} (hdb : s.db = [])
    (hfault : fetchFrom s.params.xlen s.prog (fetchCount s.pc s.progLen) s.pc = .error r) : fetchDecode s = .fault r := by
  simp [fetchDecode, hdb, hfault]

/-- R144: a location that decodes is passed, so the rest of the fetch alone decides whether an error ends it. -/
theorem fetchFrom_succ_error_of_decodesTo {xlen : Nat} {prog : List ProgItem} {k i : Nat} {instr : Instr} {r : Fault}
    (hdecode : Memory.decodesTo xlen prog i instr) (hrest : fetchFrom xlen prog k (i + 1) = .error r) :
    fetchFrom xlen prog (k + 1) i = .error r := by
  obtain ⟨item, hread, hok⟩ := hdecode
  simp [fetchFrom, hread, hok, hrest]

/-- R144: the first of the locations read that does not decode ends the fetch, with its index and its reason. -/
theorem fetchFrom_of_first_undecodable {xlen : Nat} {prog : List ProgItem} {item : ProgItem} {why : DecodeError} {k i j : Nat} (hj : j < k)
    (hbefore : ∀ m < j, ∃ instr, Memory.decodesTo xlen prog (i + m) instr) (hread : Memory.read prog (i + j) = some item)
    (hdecode : decodeItem xlen item = .error why) : fetchFrom xlen prog k i = .error (.decodeError (i + j) why) := by
  induction j generalizing k i with
  | zero =>
    obtain ⟨k, rfl⟩ := Nat.exists_eq_succ_of_ne_zero (Nat.ne_of_gt hj)
    rw [Nat.add_zero] at hread ⊢
    simp [fetchFrom, hread, hdecode]
  | succ j ih =>
    obtain ⟨k, rfl⟩ := Nat.exists_eq_succ_of_ne_zero (Nat.ne_zero_of_lt hj)
    have hshift : ∀ m, i + (m + 1) = i + 1 + m := fun m => by omega
    obtain ⟨instr, hhead⟩ := hbefore 0 (Nat.succ_pos j)
    refine fetchFrom_succ_error_of_decodesTo hhead ?_
    rw [hshift j] at hread ⊢
    exact ih (Nat.lt_of_succ_lt_succ hj) (fun m hm => hshift m ▸ hbefore (m + 1) (Nat.succ_lt_succ hm)) hread

/-- Settles O34: when no location read is a bad one, the fetch gives its batch. -/
theorem fetchReadsUpToFour : Obligations.FetchReadsUpToFour := by
  unfold Obligations.FetchReadsUpToFour
  intro s k hk
  have hcount : fetchCount s.pc s.progLen = k := hk.symm
  refine ⟨fetchDecode_of_db_ne_nil, fun hdb hall => ?_⟩
  obtain ⟨batch, hbatch, hlength, hentries⟩ := (fetchFrom_pc_cases s).resolve_right (by
    rintro ⟨j, hj, hbad, -⟩
    obtain ⟨item, instr, hread, hdecode⟩ := hall j (hcount ▸ hj)
    exact hbad ⟨instr, item, hread, hdecode⟩)
  have hnext := fetchDecode_of_fetchFrom_ok hdb hbatch
  rw [hcount] at hnext hlength
  exact ⟨batch, hnext, hlength, hentries⟩

/-- Settles O35: the location lies within the program and within the width, so the fetch reads it, and it is the first bad one. -/
theorem fetchEndsAtTheFirstUndecodable : Obligations.FetchEndsAtTheFirstUndecodable := by
  unfold Obligations.FetchEndsAtTheFirstUndecodable
  intro s j item why hdb hj hbefore hitem hdecode
  have hin : s.pc + j < s.progLen := (List.getElem?_eq_some_iff.mp hitem).1
  have hread : j < fetchCount s.pc s.progLen := by
    rw [fetchCount_eq_min]
    omega
  refine fetchDecode_of_fetchFrom_error hdb (fetchFrom_of_first_undecodable hread (fun m hm => ?_) hitem hdecode)
  obtain ⟨x, instr, hx, hok⟩ := hbefore m hm
  exact ⟨instr, x, hx, hok⟩

end Sys2Proof.Machine

/-! What renaming and dispatching one instruction does (`42_rename_dispatch.md` rules R161 to R166): all ten forms share one effect, and an empty Free List stalls
them all (R163). -/

namespace Sys2Proof.Machine

section
variable {s : State} {p : PReg} {rest : List PReg}

theorem allocate_mapOf (op : Opcode) (rd rs1 r : LReg) (src : OperandB) :
    (s.allocate op rd rs1 src p rest).mapOf r = if r = rd then p else s.mapOf r :=
  mapOf_writeRat (s.withFl rest) rd r p

theorem allocate_isBusy (op : Opcode) (rd rs1 : LReg) (src : OperandB) (q : PReg) :
    (s.allocate op rd rs1 src p rest).isBusy q = if q = p then true else s.isBusy q :=
  isBusy_writeBusy ((s.withFl rest).writeRat rd p) p q true

/-- Allocation has the effect of R161, R162, R164 and R165, and no other. -/
theorem allocate_dispatchEffect (op : Opcode) (rd rs1 : LReg) (src : OperandB) :
    DispatchEffect s (s.allocate op rd rs1 src p rest) op rd rs1 src p rest := by
  refine ⟨rfl, ?map, ?otherMaps, ?busy, ?otherBits, rfl, ⟨newIQEntry s op rs1 src p, rfl, rfl, rfl, rfl, rfl, rfl, rfl, ?operandB⟩,
    rfl, rfl, rfl, rfl, rfl, rfl, rfl, rfl, rfl, rfl⟩
  case map => rw [allocate_mapOf, if_pos rfl]
  case otherMaps => exact fun r hr => by rw [allocate_mapOf, if_neg hr]
  case busy => rw [allocate_isBusy, if_pos rfl]
  case otherBits => exact fun q hq => by rw [allocate_isBusy, if_neg hq]
  case operandB => cases src <;> exact ⟨rfl, rfl, rfl⟩

/-- With a register free, every form answers with the effect of its record's fields. -/
theorem exec_dispatchEffect (hfl : s.fl = p :: rest) (i : Instr) :
    ∃ t, exec i s = .next t ∧ DispatchEffect s t i.op i.rd i.rs1 i.srcB p rest :=
  ⟨_, by rw [exec_eq_renameDispatch, renameDispatch_cons _ _ _ _ _ _ _ hfl], allocate_dispatchEffect _ _ _ _⟩

end

/-- Settles O11: the five register forms are cases of the one effect. -/
theorem registerFormsDispatch : Obligations.RegisterFormsDispatch := by
  unfold Obligations.RegisterFormsDispatch
  intro rd rs1 rs2 s p rest hfl
  exact ⟨exec_dispatchEffect hfl (.add rd rs1 rs2), exec_dispatchEffect hfl (.sub rd rs1 rs2), exec_dispatchEffect hfl (.mulu rd rs1 rs2),
    exec_dispatchEffect hfl (.divu rd rs1 rs2), exec_dispatchEffect hfl (.remu rd rs1 rs2)⟩

/-- Settles O12: the five immediate forms are cases of the one effect. -/
theorem immediateFormsDispatch : Obligations.ImmediateFormsDispatch := by
  unfold Obligations.ImmediateFormsDispatch
  intro rd rs1 v s p rest hfl
  exact ⟨exec_dispatchEffect hfl (.addi rd rs1 v), exec_dispatchEffect hfl (.subImm rd rs1 v), exec_dispatchEffect hfl (.muluImm rd rs1 v),
    exec_dispatchEffect hfl (.divuImm rd rs1 v), exec_dispatchEffect hfl (.remuImm rd rs1 v)⟩

/-- Settles O13: every form is renaming and dispatch, which an empty Free List stalls. -/
theorem emptyFreeListStallsEveryForm : Obligations.EmptyFreeListStallsEveryForm := by
  unfold Obligations.EmptyFreeListStallsEveryForm
  intro i s hfl
  rw [exec_eq_renameDispatch, renameDispatch_nil _ _ _ _ _ hfl]

end Sys2Proof.Machine

/-! Dispatch of a whole batch, of any length, read off its grants: the entries that get a register, in order, each with the register it takes
(`42_rename_dispatch.md` rules R160, R163 to R166, R168). -/

namespace Sys2Proof.Machine

/-- Dispatch is its grants; the entries behind them are kept or lost (R163, R168). -/
theorem dispatch_eq_afterGrants (s : State) :
    dispatch s = .next ((s.afterGrants (s.db.zip s.fl)).withDb (s.stalledBuffer (s.db.drop s.fl.length))) := by
  rw [dispatch_eq, foldl_dispatchEntry_eq_grants _ _ rfl]
  rfl

section
variable (s : State) (grants : List (DBEntry × PReg))

/-- The Active List entries of a list of grants, each as the grants before it leave the RAT (R164, R165). -/
def State.grantedAl : List ALEntry :=
  grants.mapIdx fun j g => newALEntry ((s.afterGrants (grants.take j)).withDb [g.1]) g.1.instr.rd

/-- The Issue Queue entries of a list of grants, each with the operands that the grants before it leave (R161, R162, R165). -/
def State.grantedIq : List IQEntry :=
  grants.mapIdx fun j g => newIQEntry ((s.afterGrants (grants.take j)).withDb [g.1]) g.1.instr.op g.1.instr.rs1 g.1.instr.srcB g.2

@[simp] theorem afterGrants_al : (s.afterGrants grants).al = s.al ++ s.grantedAl grants := by rw [afterGrants_eq]; rfl
@[simp] theorem afterGrants_iq : (s.afterGrants grants).iq = s.iq ++ s.grantedIq grants := by rw [afterGrants_eq]; rfl
@[simp] theorem afterGrants_fl : (s.afterGrants grants).fl = s.fl.drop grants.length := by rw [afterGrants_eq]

/-- What each Active List entry shows of its instruction alone, the list shows of the grants. -/
theorem map_grantedAl {γ : Type} {f : ALEntry → γ} {k : DBEntry × PReg → γ} (h : ∀ u g, f (newALEntry (State.withDb u [g.1]) g.1.instr.rd) = k g) :
    (s.grantedAl grants).map f = grants.map k :=
  List.ext_getElem (by simp [State.grantedAl]) fun j _ _ => by simp [State.grantedAl, h]

/-- What each Issue Queue entry shows of its instruction and its register alone, the list shows of the grants. -/
theorem map_grantedIq {γ : Type} {f : IQEntry → γ} {k : DBEntry × PReg → γ}
    (h : ∀ u g, f (newIQEntry (State.withDb u [g.1]) g.1.instr.op g.1.instr.rs1 g.1.instr.srcB g.2) = k g) :
    (s.grantedIq grants).map f = grants.map k :=
  List.ext_getElem (by simp [State.grantedIq]) fun j _ _ => by simp [State.grantedIq, h]

/-- R165: a dispatched instruction has neither executed nor faulted. -/
theorem not_done_of_mem_grantedAl {a : ALEntry} (ha : a ∈ s.grantedAl grants) : a.done = false ∧ a.exc = false := by
  obtain ⟨j, hj, rfl⟩ := List.mem_mapIdx.mp ha
  exact ⟨rfl, rfl⟩

/-- R164: a mapping is the last grant's for the register, or what the grants before that one leave. -/
theorem mapOf_afterGrants_concat (g : DBEntry × PReg) (r : LReg) :
    (s.afterGrants (grants ++ [g])).mapOf r = if r = g.1.instr.rd then g.2 else (s.afterGrants grants).mapOf r := by
  have hgrant : s.afterGrants (grants ++ [g]) = (s.afterGrants grants).grantEntry g := by simp [State.afterGrants]
  rw [hgrant]
  exact allocate_mapOf g.1.instr.op g.1.instr.rd g.1.instr.rs1 r g.1.instr.srcB

theorem mapOf_afterGrants_of_forall_ne {r : LReg} (h : ∀ e ∈ grants.map Prod.fst, e.instr.rd ≠ r) : (s.afterGrants grants).mapOf r = s.mapOf r := by
  induction grants using List.reverseRecOn with
  | nil => rfl
  | append_singleton earlier g ih =>
    rw [List.map_append] at h
    obtain ⟨hearlier, hlast⟩ := List.forall_mem_append.mp h
    rw [mapOf_afterGrants_concat, if_neg (hlast g.1 (List.mem_singleton_self _)).symm, ih hearlier]

end

/-- Settles O37: the grants pair as much of the batch as the Free List reaches with its registers. -/
theorem dispatchTakesAPrefixOfTheBatch : Obligations.DispatchTakesAPrefixOfTheBatch := by
  unfold Obligations.DispatchTakesAPrefixOfTheBatch
  intro s m
  have hgrants : s.db.zip s.fl = (s.db.take m).zip (s.fl.take m) := List.zip_eq_zip_take_min
  have hlength : (s.db.zip s.fl).length = m := List.length_zip
  have hentries : (s.db.zip s.fl).map Prod.fst = s.db.take m := by
    rw [hgrants]
    exact List.map_fst_zip (by simp only [List.length_take]; omega)
  have hbatch : ∀ {γ : Type} (f : DBEntry → γ), (s.db.zip s.fl).map (f ∘ Prod.fst) = (s.db.take m).map f := fun f => by
    rw [← List.map_map, hentries]
  have hregs : (s.db.zip s.fl).map Prod.snd = s.fl.take m := by
    rw [hgrants]
    exact List.map_snd_zip (by simp only [List.length_take]; omega)
  have hstalled : s.db.drop s.fl.length = s.db.drop m := by
    rcases Nat.le_total s.db.length s.fl.length with hle | hle
    · rw [show m = s.db.length from Nat.min_eq_left hle, List.drop_length, List.drop_eq_nil_of_le hle]
    · rw [show m = s.fl.length from Nat.min_eq_right hle]
  have hdispatch := dispatch_eq_afterGrants s
  obtain ⟨hprf, hpc, hlatch, hexc, hepc, hmode, hprog, hparams, htrace⟩ := dispatchLoop_frame s.db [] s _ hdispatch
  have hbusy := isBusy_afterGrants s (s.db.zip s.fl)
  rw [hregs] at hbusy
  generalize s.db.zip s.fl = grants at *
  refine ⟨_, s.grantedAl grants, s.grantedIq grants, hdispatch, hlength ▸ afterGrants_fl s grants, afterGrants_al s grants, afterGrants_iq s grants,
    (map_grantedAl s grants fun _ _ => rfl).trans (hbatch _), (map_grantedIq s grants fun _ _ => rfl).trans (hbatch _),
    (map_grantedAl s grants fun _ _ => rfl).trans (hbatch _), (map_grantedIq s grants fun _ _ => rfl).trans (hbatch _),
    (map_grantedIq s grants fun _ _ => rfl).trans hregs, fun a => not_done_of_mem_grantedAl s grants,
    fun p hp => ?granted, fun p hp => ?others, fun r hr => mapOf_afterGrants_of_forall_ne s grants (hentries.symm ▸ hr), fun hretain => ?retained,
    fun hdrop => ?dropped, hprf, hpc, hlatch, hmode, hexc, hepc, hprog, hparams, htrace⟩
  case granted => exact (hbusy p).trans (by simp [hp])
  case others => exact (hbusy p).trans (by simp [hp])
  case retained => simp [State.stalledBuffer, hretain, hstalled]
  case dropped => simp [State.stalledBuffer, hdrop]

end Sys2Proof.Machine

/-! Cycles with nothing to fetch: the first dispatches the batch, and the later ones only execute, issue and retire (`40_cycle.md` rules R121 to R123). -/

namespace Sys2Proof.Machine

/-- R141: past the end of the program a fetch reads nothing. -/
theorem fetchDecode_of_past_end {s : State} (hpast : s.progLen ≤ s.pc) : fetchDecode s = .next s := by
  by_cases hdb : s.db = []
  · have hnone : fetchCount s.pc s.progLen = 0 := if_neg (Nat.not_lt.mpr hpast)
    rw [fetchDecode_of_fetchFrom_ok (batch := []) hdb (by rw [hnone]; rfl), hnone, ← hdb]
    rfl
  · exact fetchDecode_of_db_ne_nil hdb

@[simp] theorem stalledBuffer_nil (s : State) : s.stalledBuffer [] = [] := by
  unfold State.stalledBuffer
  split <;> rfl

theorem dispatch_of_db_nil {s : State} (hdb : s.db = []) : dispatch s = .next s := by
  rw [dispatch, hdb, dispatchLoop_nil, stalledBuffer_nil, ← hdb]
  rfl

/-- Past the end of the program a cycle without a fault ends on what Dispatch leaves (R121). -/
theorem step_of_past_end {s e d : State} (hrun : s.mode = .run) (hgoes : s.drained = false) (hfault : (commit s).2 = false)
    (he : execute (commit s).1 = .next e) (hd : dispatch (issue e) = .next d) (hpast : d.progLen ≤ d.pc) : step s = .next d.emit := by
  rw [step_of_noFault s e hrun hgoes hfault he, hd, andThen_next, fetchDecode_of_past_end hpast, andThen_next]

/-- A run goes on from where a shorter one answers. -/
theorem core_run_add {m : Nat} (n : Nat) {s u : State} (h : Host.Core.run Sys2Proof.core m s = .next u) :
    Host.Core.run Sys2Proof.core (m + n) s = Host.Core.run Sys2Proof.core n u := by
  induction m generalizing s with
  | zero =>
    cases h
    rw [Nat.zero_add]
  | succ m ih =>
    cases hstep : step s with
    | next t =>
      rw [core_run_succ m hstep] at h
      rw [Nat.add_right_comm, core_run_succ (m + n) hstep, ih h]
    | fault r =>
      have hstep' : Sys2Proof.core.step s = .fault r := hstep
      simp [Host.Core.run, hstep'] at h
    | refused r =>
      have hstep' : Sys2Proof.core.step s = .refused r := hstep
      simp [Host.Core.run, hstep'] at h

/-! ### Commit and Execute -/

/-- R251, R252, R254: the entries before the first that waits retire, each pushing the register it displaced. -/
theorem commitLoop_of_waiting_head (gone kept : List ALEntry) (s : State) (hgone : ∀ a ∈ gone, a.done = true ∧ a.exc = false)
    (hwaits : ∀ a ∈ kept.head?, a.done = false ∧ a.exc = false) :
    commitLoop (gone ++ kept) (s.withAl (gone ++ kept)) = ({ s with al := kept, fl := s.fl ++ gone.map ALEntry.oldDest }, false) := by
  induction gone generalizing s with
  | nil =>
    cases kept with
    | nil => simp [commitLoop_nil, State.withAl]
    | cons a rest =>
      obtain ⟨hdone, hexc⟩ := hwaits a rfl
      simp [commitLoop_wait _ _ _ hexc hdone, State.withAl]
  | cons a rest ih =>
    obtain ⟨⟨hdone, hexc⟩, hrest⟩ := List.forall_mem_cons.mp hgone
    simpa [commitLoop_retire _ _ _ hexc hdone, pushFree_eq, State.withAl] using ih (s.pushFree a.oldDest) hrest

theorem commit_of_waiting_head {s : State} {gone kept : List ALEntry} (hal : s.al = gone ++ kept) (hgone : ∀ a ∈ gone, a.done = true ∧ a.exc = false)
    (hwaits : ∀ a ∈ kept.head?, a.done = false ∧ a.exc = false) :
    commit s = ({ s with al := kept, fl := s.fl ++ gone.map ALEntry.oldDest }, false) := by
  rw [commit, hal, ← commitLoop_of_waiting_head gone kept s hgone hwaits, ← hal]
  rfl

section
variable (w : Nat) (latch : List IQEntry)

/-- The register file after a latch of width `w` (R204). -/
def writtenBy (prf : Vector Nat Config.nphys) : Vector Nat Config.nphys := latch.foldl (fun f e => f.set e.destReg.val (e.result w).value) prf

/-- The Active List after a latch without faults (R202). -/
def markedBy (al : List ALEntry) : List ALEntry := latch.foldl (fun l e => l.map (ALEntry.marked e.pc false)) al

/-- The Issue Queue after a latch without faults (R205). -/
def wokenBy (iq : List IQEntry) : List IQEntry := latch.foldl (fun q e => q.map (wakeEntry e.destReg (e.result w).value)) iq

theorem driveBus_of_noFault (s : State) {e : IQEntry} (he : (e.result w).fault = false) :
    s.driveBus (e.bus w) =
      { s with prf := s.prf.set e.destReg.val (e.result w).value, busy := s.busy.set e.destReg.val false,
               al := s.al.map (ALEntry.marked e.pc false), iq := s.iq.map (wakeEntry e.destReg (e.result w).value) } := by
  simp only [State.driveBus, IQEntry.bus, he]
  rfl

/-- What a latch without faults drives, entry after entry (R202 to R205). -/
theorem foldl_driveBus_of_noFault (s : State) (hclean : ∀ e ∈ latch, (e.result w).fault = false) :
    ∃ busy, (executeBlock w latch).foldl State.driveBus s =
      { s with prf := writtenBy w latch s.prf, busy := busy, al := markedBy latch s.al, iq := wokenBy w latch s.iq } := by
  induction latch generalizing s with
  | nil => exact ⟨s.busy, rfl⟩
  | cons e rest ih =>
    obtain ⟨he, hrest⟩ := List.forall_mem_cons.mp hclean
    obtain ⟨busy, hbusy⟩ := ih (s.driveBus (e.bus w)) hrest
    rw [driveBus_of_noFault w s he] at hbusy
    exact ⟨busy, by rw [executeBlock_cons, List.foldl_cons, driveBus_of_noFault w s he, hbusy]; rfl⟩

end

/-! ### What a batch leaves to do -/

/-- A RUN state with nothing to fetch or to dispatch, whose mappings and parameters are those of `s`; the rest of what its cycles read and write is `fl`, `prf`,
`al`, `iq` and `latch`. -/
structure State.Settling (s t : State) (fl : List PReg) (prf : Vector Nat Config.nphys) (al : List ALEntry) (iq latch : List IQEntry) : Prop where
  mode : t.mode = .run
  db : t.db = []
  past : t.progLen ≤ t.pc
  rat : t.rat = s.rat
  params : t.params = s.params
  fl : t.fl = fl
  prf : t.prf = prf
  al : t.al = al
  iq : t.iq = iq
  execLatch : t.execLatch = latch

theorem selectReady_nil (n : Nat) : selectReady n [] = ([], []) := by
  cases n <;> rfl

/-- One cycle: the head entries retire, the latch executes, and the queue as it is then issues (R121, R184). -/
theorem State.Settling.cycle {s t : State} {fl : List PReg} {prf : Vector Nat Config.nphys} {gone kept : List ALEntry} {iq latch : List IQEntry}
    (h : s.Settling t fl prf (gone ++ kept) iq latch) (hsome : gone ++ kept ≠ []) (hgone : ∀ a ∈ gone, a.done = true ∧ a.exc = false)
    (hwaits : ∀ a ∈ kept.head?, a.done = false ∧ a.exc = false) (hdistinct : (kept.map ALEntry.pc).Nodup)
    (hhas : ∀ e ∈ latch, ∃ a ∈ kept, a.pc = e.pc) (hclean : ∀ e ∈ latch, (e.result s.params.xlen).fault = false) :
    ∃ u, step t = .next u ∧ s.Settling u (fl ++ gone.map ALEntry.oldDest) (writtenBy s.params.xlen latch prf) (markedBy latch kept)
      (selectReady Config.width (wokenBy s.params.xlen latch iq)).2 (selectReady Config.width (wokenBy s.params.xlen latch iq)).1 := by
  obtain ⟨hmode, hdb, hpast, hrat, hparams, rfl, rfl, hal, rfl, rfl⟩ := h
  have hcommit := commit_of_waiting_head hal hgone hwaits
  have hgoes : t.drained = false := by
    rw [← Bool.not_eq_true, drained_iff]
    exact fun ⟨_, _, hnil⟩ => hsome (hal.symm.trans hnil)
  have hexecute := executeBlockIsTheStage (commit t).1 (by rw [hcommit]; exact hdistinct) (by rw [hcommit]; exact hhas)
  rw [← hparams] at hclean ⊢
  obtain ⟨busy, hbuses⟩ := foldl_driveBus_of_noFault t.params.xlen t.execLatch (commit t).1 hclean
  simp only [hcommit, State.driveExecute] at hexecute hbuses
  rw [hbuses] at hexecute
  have hstage := (congrArg (fun c : State × Bool => execute c.1) hcommit).trans hexecute
  exact ⟨_, step_of_past_end hmode hgoes (by rw [hcommit]) hstage (dispatch_of_db_nil hdb) hpast,
    ⟨hmode, hdb, hpast, hrat, hparams, rfl, rfl, rfl, rfl, rfl⟩⟩

/-- The batch dispatched as a whole, nothing else being in the machine, leaves the records of its grants to settle (R160, R164, R165). -/
theorem settling_of_onlyDecoded {s : State} {batch : List DBEntry} {free rest : List PReg} (h : s.onlyDecoded batch free rest) (hsome : batch ≠ [])
    (hfree : batch.length = free.length) :
    ∃ t, step s = .next t ∧ (s.afterGrants (batch.zip free)).Settling t rest s.prf (s.grantedAl (batch.zip free)) (s.grantedIq (batch.zip free)) [] := by
  obtain ⟨hmode, hdb, hal, hiq, hlatch, hfl, -, hpast, -, -⟩ := h
  have hcommit : commit s = (s, false) := by rw [commit, hal, commitLoop_nil]
  have hgoes : s.drained = false := by simp [State.drained, hdb, hsome]
  have hexecute : execute s = .next s := by
    rw [execute, hlatch, executeLoop, andThen_next, ← hlatch]
    rfl
  have hissue : issue s = s := by
    have hidle : selectReady Config.width s.iq = (s.execLatch, s.iq) := by rw [hiq, hlatch, selectReady_nil]
    rw [issue_eq, hidle]
  have hdispatch : dispatch s = .next (s.afterGrants (batch.zip free)) := by
    have hgrants : s.db.zip s.fl = batch.zip free := by
      simpa [hdb, hfl] using List.zip_append (r₁ := []) (r₂ := rest) hfree
    have hnone : s.db.drop s.fl.length = [] := List.drop_eq_nil_of_le (by simp [hdb, hfl, hfree])
    rw [dispatch_eq_afterGrants, hgrants, hnone, stalledBuffer_nil, afterGrants_eq]
    rfl
  refine ⟨_, step_of_past_end hmode hgoes (by rw [hcommit]) (by rw [hcommit]; exact hexecute) (by rw [hissue]; exact hdispatch) ?_, ?_⟩
  · rw [afterGrants_eq]
    exact hpast
  · have hrest : (s.afterGrants (batch.zip free)).fl = rest := by simp [hfl, hfree]
    have hal' := afterGrants_al s (batch.zip free)
    have hiq' := afterGrants_iq s (batch.zip free)
    rw [hal, List.nil_append] at hal'
    rw [hiq, List.nil_append] at hiq'
    refine ⟨?_, ?_, ?_, rfl, rfl, hrest, ?_, hal', hiq', ?_⟩
    all_goals rw [afterGrants_eq]
    exacts [hmode, rfl, hpast, rfl, hlatch]

end Sys2Proof.Machine

/-! A producer and its consumer in one batch (`44_execute_forward.md` rules R205 to R209): the consumer waits on the producer's register, the broadcast wakes it, and Issue
selects it in that cycle (`43_issue.md` rule R184). -/

namespace Sys2Proof.Machine

/-! ### What the two are dispatched with -/

/-- The value of operand B where logical `rd` holds `v` and every other register what it holds in `s`. -/
def State.forwardedB (s : State) (rd : LReg) (v : Nat) : OperandB → Nat
  | .reg r => if r = rd then v else s.logical r
  | .imm x => x

/-- R201: what an entry computes, of its operands. -/
theorem result_eq_alu (w : Nat) (e : IQEntry) : e.result w = alu w e.opCode e.operandA.value e.operandB.value := rfl

/-- R180: when an entry is ready, of its operands. -/
theorem ready_eq_operands (e : IQEntry) : e.ready = (e.operandA.ready && e.operandB.ready) := rfl

section
variable {s : State} (hidle : ∀ r, s.isBusy (s.mapOf r) = false)
include hidle

/-- R162: with no mapped register busy, a source is ready with its value. -/
theorem registerOperand_of_idle (r : LReg) : registerOperand s r = ⟨true, 0, s.logical r⟩ := by
  simp [registerOperand, physicalOperand, hidle, State.logical]

theorem operandB_of_idle (src : OperandB) : operandB s src = ⟨true, 0, s.valueB src⟩ := by
  cases src with
  | reg r => exact registerOperand_of_idle hidle r
  | imm v => rfl

variable (g : DBEntry × PReg) (hfree : ∀ r, s.mapOf r ≠ g.2)
include hfree

/-- R162, R167: behind one grant its destination waits on the register granted, and every other source is as it was. -/
theorem registerOperand_afterGrant (r : LReg) :
    registerOperand (s.afterGrants [g]) r = if r = g.1.instr.rd then ⟨false, g.2, s.prfAt g.2⟩ else ⟨true, 0, s.logical r⟩ := by
  have hmap : (s.afterGrants [g]).mapOf r = if r = g.1.instr.rd then g.2 else s.mapOf r := mapOf_afterGrants_concat s [] g r
  rw [registerOperand, physicalOperand, isBusy_afterGrants, prfAt_afterGrants, hmap]
  split
  · simp
  · simp [hfree r, hidle, State.logical]

/-- R205: the grant's result wakes what waits on it, so every source is ready behind it. -/
theorem wakeOperand_registerOperand_afterGrant (v : Nat) (r : LReg) :
    wakeOperand g.2 v (registerOperand (s.afterGrants [g]) r) = ⟨true, 0, if r = g.1.instr.rd then v else s.logical r⟩ := by
  rw [registerOperand_afterGrant hidle g hfree]
  split <;> simp [wakeOperand]

theorem wakeOperand_operandB_afterGrant (v : Nat) (src : OperandB) :
    wakeOperand g.2 v (operandB (s.afterGrants [g]) src) = ⟨true, 0, s.forwardedB g.1.instr.rd v src⟩ := by
  cases src with
  | reg r => exact wakeOperand_registerOperand_afterGrant hidle g hfree v r
  | imm x => simp [operandB, immediateOperand, wakeOperand, State.forwardedB]

end

section
variable (s : State) (g₁ g₂ : DBEntry × PReg)

/-- The Issue Queue entry of the first of two grants. -/
def State.producer : IQEntry := newIQEntry (s.withDb [g₁.1]) g₁.1.instr.op g₁.1.instr.rs1 g₁.1.instr.srcB g₁.2

/-- The Issue Queue entry of the second, as the first leaves the RAT and the Busy bits. -/
def State.consumer : IQEntry := newIQEntry ((s.afterGrants [g₁]).withDb [g₂.1]) g₂.1.instr.op g₂.1.instr.rs1 g₂.1.instr.srcB g₂.2

theorem grantedIq_pair : s.grantedIq [g₁, g₂] = [s.producer g₁, s.consumer g₁ g₂] := rfl

theorem grantedAl_pair : s.grantedAl [g₁, g₂] =
    [newALEntry (s.withDb [g₁.1]) g₁.1.instr.rd, newALEntry ((s.afterGrants [g₁]).withDb [g₂.1]) g₂.1.instr.rd] := rfl

theorem producer_operands : (s.producer g₁).operandA = registerOperand s g₁.1.instr.rs1 ∧ (s.producer g₁).operandB = operandB s g₁.1.instr.srcB :=
  ⟨rfl, rfl⟩

theorem consumer_operands : (s.consumer g₁ g₂).operandA = registerOperand (s.afterGrants [g₁]) g₂.1.instr.rs1 ∧
    (s.consumer g₁ g₂).operandB = operandB (s.afterGrants [g₁]) g₂.1.instr.srcB :=
  ⟨rfl, rfl⟩

end

section
variable {s : State} (hidle : ∀ r, s.isBusy (s.mapOf r) = false) (g₁ : DBEntry × PReg)
include hidle

/-- R180: what the first reads is in the registers, so it may issue at once. -/
theorem producer_ready : (s.producer g₁).ready = true := by
  obtain ⟨hA, hB⟩ := producer_operands s g₁
  rw [ready_eq_operands, hA, hB, registerOperand_of_idle hidle, operandB_of_idle hidle]
  rfl

theorem producer_result (w : Nat) :
    (s.producer g₁).result w = alu w g₁.1.instr.op (s.logical g₁.1.instr.rs1) (s.valueB g₁.1.instr.srcB) := by
  obtain ⟨hA, hB⟩ := producer_operands s g₁
  rw [result_eq_alu, hA, hB, registerOperand_of_idle hidle, operandB_of_idle hidle]
  rfl

variable {g₁} (hfree : ∀ r, s.mapOf r ≠ g₁.2) {g₂ : DBEntry × PReg} (hsource : g₂.1.instr.rs1 = g₁.1.instr.rd)
include hfree hsource

/-- R162, R167: the second, whose source 1 the first writes, waits on the first's register. -/
theorem consumer_operandA : (s.consumer g₁ g₂).operandA = ⟨false, g₁.2, s.prfAt g₁.2⟩ := by
  rw [(consumer_operands s g₁ g₂).1, hsource, registerOperand_afterGrant hidle g₁ hfree, if_pos rfl]

theorem consumer_waits : (s.consumer g₁ g₂).ready = false := by
  rw [ready_eq_operands, consumer_operandA hidle hfree hsource]
  rfl

/-- R205: the first's result is the second's operand A, and its operand B where that waited too. -/
theorem woken_consumer_operands (v : Nat) :
    (wakeEntry g₁.2 v (s.consumer g₁ g₂)).operandA = ⟨true, 0, v⟩ ∧
      (wakeEntry g₁.2 v (s.consumer g₁ g₂)).operandB = ⟨true, 0, s.forwardedB g₁.1.instr.rd v g₂.1.instr.srcB⟩ := by
  obtain ⟨hA, hB⟩ := consumer_operands s g₁ g₂
  rw [wakeEntry_operandA, wakeEntry_operandB, hA, hB, hsource, wakeOperand_registerOperand_afterGrant hidle g₁ hfree,
    wakeOperand_operandB_afterGrant hidle g₁ hfree, if_pos rfl]
  exact ⟨rfl, rfl⟩

theorem woken_consumer_ready (v : Nat) : (wakeEntry g₁.2 v (s.consumer g₁ g₂)).ready = true := by
  obtain ⟨hA, hB⟩ := woken_consumer_operands hidle hfree hsource v
  rw [ready_eq_operands, hA, hB]
  rfl

theorem woken_consumer_result (w v : Nat) :
    (wakeEntry g₁.2 v (s.consumer g₁ g₂)).result w = alu w g₂.1.instr.op v (s.forwardedB g₁.1.instr.rd v g₂.1.instr.srcB) := by
  obtain ⟨hA, hB⟩ := woken_consumer_operands hidle hfree hsource v
  rw [result_eq_alu, hA, hB]
  rfl

end

/-! ### The pair's way through the pipeline -/

/-- Two instructions in flight, alone: the first ready, the second waiting on its result, which makes it ready; neither faults. -/
structure Forwards (w : Nat) (a₁ a₂ : ALEntry) (e₁ e₂ : IQEntry) : Prop where
  fresh₁ : a₁.done = false ∧ a₁.exc = false
  fresh₂ : a₂.done = false ∧ a₂.exc = false
  pc₁ : a₁.pc = e₁.pc
  pc₂ : a₂.pc = e₂.pc
  distinct : a₁.pc ≠ a₂.pc
  ready : e₁.ready = true
  waits : e₂.ready = false
  woken : (wakeEntry e₁.destReg (e₁.result w).value e₂).ready = true
  clean₁ : (e₁.result w).fault = false
  clean₂ : ((wakeEntry e₁.destReg (e₁.result w).value e₂).result w).fault = false

section
variable {s t : State} {fl : List PReg} {prf : Vector Nat Config.nphys} {a₁ a₂ : ALEntry} {e₁ e₂ : IQEntry}

/-- R184, R207: the first issues while the second waits; then it executes, and in that cycle the second is woken and issues. -/
theorem Forwards.run_to_wakeup (h : Forwards s.params.xlen a₁ a₂ e₁ e₂) (ht : s.Settling t fl prf [a₁, a₂] [e₁, e₂] []) :
    ∃ u, Host.Core.run Sys2Proof.core 2 t = .next u ∧
      s.Settling u fl (prf.set e₁.destReg.val (e₁.result s.params.xlen).value) [{ a₁ with done := true, exc := false }, a₂] []
        [wakeEntry e₁.destReg (e₁.result s.params.xlen).value e₂] := by
  have hdistinct : ([a₁, a₂].map ALEntry.pc).Nodup := by simpa using h.distinct
  have hwaits : ∀ a ∈ [a₁, a₂].head?, a.done = false ∧ a.exc = false := by simpa using h.fresh₁
  obtain ⟨t₁, ht₁, hissued⟩ := ht.cycle (gone := []) (by simp) (by simp) hwaits hdistinct (by simp) (by simp)
  have hissued' : s.Settling t₁ fl prf [a₁, a₂] [e₂] [e₁] := by
    simpa [writtenBy, markedBy, wokenBy, selectReady, h.ready, h.waits] using hissued
  obtain ⟨u, hu, hwoken⟩ := hissued'.cycle (gone := []) (by simp) (by simp) hwaits hdistinct (by simp [h.pc₁]) (by simpa using h.clean₁)
  have hmarked : markedBy [e₁] [a₁, a₂] = [{ a₁ with done := true, exc := false }, a₂] := by
    simp [markedBy, ALEntry.marked, h.pc₁, h.pc₁ ▸ h.distinct.symm]
  refine ⟨u, by rw [core_run_succ 1 ht₁, core_run_succ 0 hu]; rfl, ?_⟩
  simpa [hmarked, writtenBy, wokenBy, selectReady, h.woken] using hwoken

/-- R203, R251: the first retires while the second executes, and then the second retires. -/
theorem State.Settling.run_to_retirement {e : IQEntry} (ht : s.Settling t fl prf [{ a₁ with done := true, exc := false }, a₂] [] [e])
    (hfresh : a₂.done = false ∧ a₂.exc = false) (hpc : a₂.pc = e.pc) (hclean : (e.result s.params.xlen).fault = false) :
    ∃ u, Host.Core.run Sys2Proof.core 2 t = .next u ∧
      s.Settling u (fl ++ [a₁.oldDest, a₂.oldDest]) (prf.set e.destReg.val (e.result s.params.xlen).value) [] [] [] := by
  obtain ⟨t₁, ht₁, hexecuted⟩ := ht.cycle (gone := [_]) (kept := [a₂]) (by simp) (by simp) (by simpa using hfresh) (by simp) (by simp [hpc])
    (by simpa using hclean)
  have hexecuted' : s.Settling t₁ (fl ++ [a₁.oldDest]) (prf.set e.destReg.val (e.result s.params.xlen).value)
      [{ a₂ with done := true, exc := false }] [] [] := by
    simpa [writtenBy, markedBy, wokenBy, selectReady, ALEntry.marked, hpc] using hexecuted
  obtain ⟨u, hu, hretired⟩ := hexecuted'.cycle (gone := [_]) (kept := []) (by simp) (by simp) (by simp) (by simp) (by simp) (by simp)
  refine ⟨u, by rw [core_run_succ 1 ht₁, core_run_succ 0 hu]; rfl, ?_⟩
  simpa [writtenBy, markedBy, wokenBy, selectReady] using hretired

end

/-- R161, R162, R165, R167: two grants with nothing busy, the second reading the first's destination as source 1, are such a pair. -/
theorem forwards_of_grants {s : State} {g₁ g₂ : DBEntry × PReg} {w : Nat} (hidle : ∀ r, s.isBusy (s.mapOf r) = false) (hfree : ∀ r, s.mapOf r ≠ g₁.2)
    (hsource : g₂.1.instr.rs1 = g₁.1.instr.rd) (hpc : g₁.1.pc ≠ g₂.1.pc) (hclean₁ : ((s.producer g₁).result w).fault = false)
    (hclean₂ : ((wakeEntry g₁.2 ((s.producer g₁).result w).value (s.consumer g₁ g₂)).result w).fault = false) :
    Forwards w (newALEntry (s.withDb [g₁.1]) g₁.1.instr.rd) (newALEntry ((s.afterGrants [g₁]).withDb [g₂.1]) g₂.1.instr.rd) (s.producer g₁)
      (s.consumer g₁ g₂) where
  fresh₁ := ⟨rfl, rfl⟩
  fresh₂ := ⟨rfl, rfl⟩
  pc₁ := rfl
  pc₂ := rfl
  distinct := hpc
  ready := producer_ready hidle g₁
  waits := consumer_waits hidle hfree hsource
  woken := woken_consumer_ready hidle hfree hsource _
  clean₁ := hclean₁
  clean₂ := hclean₂

/-! ### What the registers hold in the end -/

section
variable {s t : State} {g₁ g₂ : DBEntry × PReg} {fl : List PReg} {al : List ALEntry} {iq latch : List IQEntry} {v₁ v₂ : Nat}

/-- With both results written, each of the two destinations reads the younger result for it, and every other register what it read. -/
theorem State.Settling.logical_pair
    (ht : (s.afterGrants [g₁, g₂]).Settling t fl ((s.prf.set g₁.2.val v₁).set g₂.2.val v₂) al iq latch) (hdistinct : g₁.2 ≠ g₂.2)
    (hfree₁ : ∀ r, s.mapOf r ≠ g₁.2) (hfree₂ : ∀ r, s.mapOf r ≠ g₂.2) (r : LReg) :
    t.logical r = if r = g₂.1.instr.rd then v₂ else if r = g₁.1.instr.rd then v₁ else s.logical r := by
  have hmap : t.mapOf r = if r = g₂.1.instr.rd then g₂.2 else if r = g₁.1.instr.rd then g₁.2 else s.mapOf r := by
    rw [mapOf_congr _ t ht.rat]
    exact (mapOf_afterGrants_concat s [g₁] g₂ r).trans (congrArg (ite _ _) (mapOf_afterGrants_concat s [] g₁ r))
  have hvalue : ∀ p, t.prfAt p = if p = g₂.2 then v₂ else if p = g₁.2 then v₁ else s.prfAt p := fun p => by
    rw [prfAt_congr ((s.writePrf g₁.2 v₁).writePrf g₂.2 v₂) t ht.prf, prfAt_writePrf, prfAt_writePrf]
  rw [State.logical, hmap, hvalue]
  by_cases h₂ : r = g₂.1.instr.rd
  · simp [h₂]
  · by_cases h₁ : r = g₁.1.instr.rd
    · simp [if_neg h₂, if_pos h₁, hdistinct]
    · simp [if_neg h₂, if_neg h₁, hfree₁ r, hfree₂ r, State.logical]

end

/-- R167, R184, R207, R209: the batch of such a pair after its dispatch, after the cycle that forwards, and retired. -/
theorem run_of_forwarding_pair {s : State} {g₁ g₂ : DBEntry × PReg} {rest : List PReg} {r₁ r₂ : AluResult}
    (h : s.onlyDecoded [g₁.1, g₂.1] [g₁.2, g₂.2] rest) (hsource : g₂.1.instr.rs1 = g₁.1.instr.rd) (hpc : g₁.1.pc ≠ g₂.1.pc)
    (hresult₁ : (s.producer g₁).result s.params.xlen = r₁) (hclean₁ : r₁.fault = false)
    (hresult₂ : (wakeEntry g₁.2 r₁.value (s.consumer g₁ g₂)).result s.params.xlen = r₂) (hclean₂ : r₂.fault = false) :
    ∃ d u t al al' freed, Host.Core.run Sys2Proof.core 1 s = .next d ∧ Host.Core.run Sys2Proof.core 3 s = .next u ∧
      Host.Core.run Sys2Proof.core 5 s = .next t ∧
      (s.afterGrants [g₁, g₂]).Settling d rest s.prf al [s.producer g₁, s.consumer g₁ g₂] [] ∧
      (s.afterGrants [g₁, g₂]).Settling u rest (s.prf.set g₁.2.val r₁.value) al' [] [wakeEntry g₁.2 r₁.value (s.consumer g₁ g₂)] ∧
      freed.length = 2 ∧
      (s.afterGrants [g₁, g₂]).Settling t (rest ++ freed) ((s.prf.set g₁.2.val r₁.value).set g₂.2.val r₂.value) [] [] [] := by
  obtain ⟨d, hd, hdispatched⟩ := settling_of_onlyDecoded h (by simp) rfl
  simp only [List.zip_cons_cons, List.zip_nil_left, grantedIq_pair, grantedAl_pair] at hdispatched
  obtain ⟨-, -, -, -, -, -, -, -, hidle, hunmapped⟩ := h
  have hfree : ∀ r, s.mapOf r ≠ g₁.2 := fun r hr => hunmapped r (by simp [hr])
  have hparams : (s.afterGrants [g₁, g₂]).params = s.params := by rw [afterGrants_eq]
  subst hresult₁ hresult₂
  have hforwards := forwards_of_grants hidle hfree hsource hpc hclean₁ hclean₂
  rw [← hparams] at hforwards hclean₂ ⊢
  obtain ⟨u, hu, hissued⟩ := hforwards.run_to_wakeup hdispatched
  obtain ⟨t, ht, hretired⟩ := hissued.run_to_retirement hforwards.fresh₂ hforwards.pc₂ hclean₂
  exact ⟨d, u, t, _, _, _, core_run_succ 0 hd, (core_run_succ 2 hd).trans hu, (core_run_succ 4 hd).trans ((core_run_add 2 hu).trans ht),
    hdispatched, hissued, rfl, hretired⟩

/-- Settles O20: the batch is two grants, the first entry ready and the second waiting on it; two cycles wake and issue the second, and two more retire both. -/
theorem forwardedValueReachesTheConsumer : Obligations.ForwardedValueReachesTheConsumer := by
  unfold Obligations.ForwardedValueReachesTheConsumer
  intro s pc i j p q rest h hsource r₁ r₂ hclean₁ hclean₂
  have hbatch := h
  obtain ⟨-, -, -, -, -, -, hnodup, -, hidle, hunmapped⟩ := h
  have hne : p ≠ q := by simpa using hnodup
  have hfree₁ : ∀ r, s.mapOf r ≠ p := fun r hr => hunmapped r (by simp [hr])
  have hfree₂ : ∀ r, s.mapOf r ≠ q := fun r hr => hunmapped r (by simp [hr])
  have hconsumer := consumer_operandA hidle (g₁ := (⟨pc, i⟩, p)) (g₂ := (⟨pc + 1, j⟩, q)) hfree₁ hsource
  obtain ⟨hwoken, -⟩ := woken_consumer_operands hidle (g₁ := (⟨pc, i⟩, p)) (g₂ := (⟨pc + 1, j⟩, q)) hfree₁ hsource r₁.value
  obtain ⟨d, u, t, al, al', freed, hd, hu, ht, hdispatched, hissued, hfreed, hretired⟩ :=
    run_of_forwarding_pair (g₁ := (⟨pc, i⟩, p)) (g₂ := (⟨pc + 1, j⟩, q)) (r₁ := r₁) (r₂ := r₂) hbatch hsource (Nat.ne_of_lt (Nat.lt_succ_self pc))
      (producer_result hidle _ _) hclean₁ (woken_consumer_result hidle hfree₁ hsource _ _) hclean₂
  have hlogical := hretired.logical_pair hne hfree₁ hfree₂
  refine ⟨⟨d, hd, _, _, hdispatched.iq, congrArg Operand.ready hconsumer, congrArg Operand.tag hconsumer⟩,
    ⟨u, hu, ?forwarded, hissued.iq, _, hissued.execLatch, rfl, congrArg Operand.value hwoken⟩,
    ⟨t, ht, hretired.mode, hretired.al, hretired.iq, hretired.execLatch, ?consumer, ?producer, ?others, ?free⟩⟩
  case forwarded => rw [prfAt_congr (s.writePrf p r₁.value) u hissued.prf, prfAt_writePrf, if_pos rfl]
  case consumer => exact (hlogical j.rd).trans (if_pos rfl)
  case producer => exact fun hother => (hlogical i.rd).trans ((if_neg hother).trans (if_pos rfl))
  case others => exact fun r hi hj => (hlogical r).trans ((if_neg hj).trans (if_neg hi))
  case free => rw [hretired.fl, List.length_append, hfreed]

end Sys2Proof.Machine

/-! The scan of `43_issue.md` rules R181 to R183: one pass parts the ready entries at the issue width and keeps the rest of the queue in its order. -/

namespace Sys2Proof.Machine

/-- With room left, the scan selects a ready entry (R181). -/
theorem selectReady_ready (n : Nat) (e : IQEntry) (rest : List IQEntry) (h : e.ready = true) :
    selectReady (n + 1) (e :: rest) = (e :: (selectReady n rest).1, (selectReady n rest).2) := by
  rw [selectReady, if_pos h]

/-- With or without room, the scan keeps an entry that is not ready (R182). -/
theorem selectReady_notReady (n : Nat) (e : IQEntry) (rest : List IQEntry) (h : e.ready = false) :
    selectReady n (e :: rest) = ((selectReady n rest).1, e :: (selectReady n rest).2) := by
  cases n with
  | zero => simp only [selectReady_zero]
  | succ n => simp [selectReady, h]

/-- The scan splits the ready entries at its room: the first `n` are selected, the later ones kept (R181, R182). -/
theorem selectReady_splits_ready (n : Nat) (q : List IQEntry) :
    (selectReady n q).1 = (q.filter IQEntry.ready).take n ∧ (selectReady n q).2.filter IQEntry.ready = (q.filter IQEntry.ready).drop n := by
  induction q generalizing n with
  | nil => simp [selectReady_nil]
  | cons e rest ih =>
    cases hready : e.ready with
    | true =>
      cases n with
      | zero => simp [selectReady_zero]
      | succ n => simp [selectReady_ready, hready, ih]
    | false => simp [selectReady_notReady, hready, ih]

/-- The scan removes no entry that is not ready (R182). -/
theorem selectReady_keeps_notReady (n : Nat) (q : List IQEntry) :
    (selectReady n q).2.filter (fun e => !e.ready) = q.filter fun e => !e.ready := by
  induction q generalizing n with
  | nil => simp [selectReady_nil]
  | cons e rest ih =>
    cases hready : e.ready with
    | true =>
      cases n with
      | zero => rw [selectReady_zero]
      | succ n => simp [selectReady_ready, hready, ih]
    | false => simp [selectReady_notReady, hready, ih]

/-- The kept entries stay in queue order (R182). -/
theorem selectReady_kept_sublist (n : Nat) (q : List IQEntry) : (selectReady n q).2.Sublist q := by
  induction q generalizing n with
  | nil => simp [selectReady_nil]
  | cons e rest ih =>
    cases hready : e.ready with
    | true =>
      cases n with
      | zero => rw [selectReady_zero]
      | succ n =>
        rw [selectReady_ready n e rest hready]
        exact (ih n).cons e
    | false =>
      rw [selectReady_notReady n e rest hready]
      exact (ih n).cons_cons e

/-- Settles O39: Issue is one scan with room for four, which parts the ready entries there and keeps the others in place. -/
theorem issueMovesTheFirstFourReady : Obligations.IssueMovesTheFirstFourReady := by
  unfold Obligations.IssueMovesTheFirstFourReady
  intro s
  obtain ⟨hselected, hkept⟩ := selectReady_splits_ready Config.width s.iq
  refine ⟨(selectReady Config.width s.iq).2, ?stage, selectReady_kept_sublist Config.width s.iq, hkept, selectReady_keeps_notReady Config.width s.iq⟩
  case stage =>
    rw [issue_eq, hselected]
    rfl

end Sys2Proof.Machine

/-! What one executed entry writes (`44_execute_forward.md` rules R201 to R206): its mark, its result and its broadcast, each as a function of the component it
writes, so that two entries with different PCs and destinations do not meet. -/

namespace Sys2Proof.Machine

/-! ### The mark (R202) -/

section
variable {pc pc' : Nat} {a : ALEntry}

theorem markDone_cons_of_eq (f : Bool) (rest : List ALEntry) (h : a.pc = pc) :
    markDone pc f (a :: rest) = some ({ a with done := true, exc := f } :: rest) := by
  simp [markDone, h]

theorem markDone_cons_of_ne (f : Bool) (rest : List ALEntry) (h : a.pc ≠ pc) : markDone pc f (a :: rest) = (markDone pc f rest).map (a :: ·) := by
  cases hrest : markDone pc f rest <;> simp [markDone, h, hrest]

/-- The oldest entry with the PC is marked, behind entries with other PCs (log 13). -/
theorem markDone_append_cons (f : Bool) (pre post : List ALEntry) (hpre : ∀ b ∈ pre, b.pc ≠ pc) (ha : a.pc = pc) :
    markDone pc f (pre ++ a :: post) = some (pre ++ { a with done := true, exc := f } :: post) := by
  induction pre with
  | nil => exact markDone_cons_of_eq f post ha
  | cons b pre ih =>
    obtain ⟨hb, hpre⟩ := List.forall_mem_cons.mp hpre
    rw [List.cons_append, markDone_cons_of_ne f _ hb, ih hpre]
    rfl

/-- At the entry that one of two marks is for, the other passes it by. -/
theorem markDone_comm_of_head (f f' : Bool) (rest : List ALEntry) (h : pc ≠ pc') (ha : a.pc = pc) :
    (markDone pc f (a :: rest)).bind (markDone pc' f') = (markDone pc' f' (a :: rest)).bind (markDone pc f) := by
  have ha' : a.pc ≠ pc' := fun hpc => h (ha.symm.trans hpc)
  rw [markDone_cons_of_eq f rest ha, markDone_cons_of_ne f' rest ha', Option.bind_some, markDone_cons_of_ne f' rest (by exact ha')]
  cases markDone pc' f' rest with
  | none => rfl
  | some rest' => exact (markDone_cons_of_eq f rest' ha).symm

/-- Marks for different PCs may be made in either order (R206). -/
theorem markDone_comm (f f' : Bool) (al : List ALEntry) (h : pc ≠ pc') :
    (markDone pc f al).bind (markDone pc' f') = (markDone pc' f' al).bind (markDone pc f) := by
  induction al with
  | nil => rfl
  | cons a rest ih =>
    by_cases hpc : a.pc = pc
    · exact markDone_comm_of_head f f' rest h hpc
    by_cases hpc' : a.pc = pc'
    · exact (markDone_comm_of_head f' f rest h.symm hpc').symm
    have hbehind := congrArg (Option.map (a :: ·)) ih
    simp only [Option.map_bind, Function.comp_def] at hbehind
    simpa only [markDone_cons_of_ne _ _ hpc, markDone_cons_of_ne _ _ hpc', Option.bind_map, Function.comp_def] using hbehind

end

/-- What a mark leaves of an Active List entry. -/
def ALEntry.identity (a : ALEntry) : LReg × PReg × Nat := (a.logDest, a.oldDest, a.pc)

theorem markDone_identities {pc : Nat} {f : Bool} {al al' : List ALEntry} (h : markDone pc f al = some al') :
    al'.map ALEntry.identity = al.map ALEntry.identity := by
  obtain ⟨pre, a, post, rfl, -, -, rfl⟩ := markDone_eq_some pc f al al' h
  simp [ALEntry.identity]

/-! ### The broadcast (R205) -/

/-- What a result leaves of an operand: woken when it waits on the destination, unless the result faults. -/
def AluResult.forwardTo (dest : PReg) (r : AluResult) (o : Operand) : Operand := if r.fault then o else wakeOperand dest r.value o

/-- What a result leaves of an Issue Queue entry. -/
def AluResult.broadcast (dest : PReg) (r : AluResult) (q : IQEntry) : IQEntry := if r.fault then q else wakeEntry dest r.value q

section
variable (dest : PReg) (r : AluResult) (q : IQEntry)

theorem broadcast_destReg : (r.broadcast dest q).destReg = q.destReg := by unfold AluResult.broadcast; split <;> rfl
theorem broadcast_opCode : (r.broadcast dest q).opCode = q.opCode := by unfold AluResult.broadcast; split <;> rfl
theorem broadcast_pc : (r.broadcast dest q).pc = q.pc := by unfold AluResult.broadcast; split <;> rfl

theorem broadcast_operandA : (r.broadcast dest q).operandA = r.forwardTo dest q.operandA := by
  unfold AluResult.broadcast AluResult.forwardTo
  split <;> rfl

theorem broadcast_operandB : (r.broadcast dest q).operandB = r.forwardTo dest q.operandB := by
  unfold AluResult.broadcast AluResult.forwardTo
  split <;> rfl

theorem forwardTo_eq (o : Operand) :
    r.forwardTo dest o = if r.fault = false ∧ o.ready = false ∧ o.tag = dest then ⟨true, 0, r.value⟩ else o := by
  cases hf : r.fault <;> simp [AluResult.forwardTo, wakeOperand, hf]

theorem forwardTo_fields (o : Operand) :
    if r.fault = false ∧ o.ready = false ∧ o.tag = dest then
      (r.forwardTo dest o).ready = true ∧ (r.forwardTo dest o).value = r.value ∧ (r.forwardTo dest o).tag = 0
    else (r.forwardTo dest o).ready = o.ready ∧ (r.forwardTo dest o).value = o.value ∧ (r.forwardTo dest o).tag = o.tag := by
  rw [forwardTo_eq]
  split_ifs <;> exact ⟨rfl, rfl, rfl⟩

end

/-- An operand waits on one register, so it takes at most one of two results with different destinations (R206). -/
theorem forwardTo_comm {dest dest' : PReg} (h : dest ≠ dest') (r r' : AluResult) (o : Operand) :
    r'.forwardTo dest' (r.forwardTo dest o) = r.forwardTo dest (r'.forwardTo dest' o) := by
  simp only [forwardTo_eq]
  split_ifs <;> simp_all

/-- An Issue Queue entry is its operands and what no broadcast changes. -/
theorem IQEntry.eq_of_operands {x y : IQEntry} (hdest : x.destReg = y.destReg) (hA : x.operandA = y.operandA) (hB : x.operandB = y.operandB)
    (hop : x.opCode = y.opCode) (hpc : x.pc = y.pc) : x = y := by
  cases x
  cases y
  simp_all [IQEntry.operandA, IQEntry.operandB]

theorem broadcast_comm {dest dest' : PReg} (h : dest ≠ dest') (r r' : AluResult) (q : IQEntry) :
    r'.broadcast dest' (r.broadcast dest q) = r.broadcast dest (r'.broadcast dest' q) := by
  refine IQEntry.eq_of_operands ?_ ?_ ?_ ?_ ?_ <;>
    simp only [broadcast_destReg, broadcast_opCode, broadcast_pc, broadcast_operandA, broadcast_operandB, forwardTo_comm h]

/-! ### The write-back (R203 to R205) -/

/-- The Busy bits after a result: the destination's cleared unless the result faults (R203). -/
def AluResult.clearBusy (dest : PReg) (r : AluResult) (busy : Vector Bool Config.nphys) : Vector Bool Config.nphys :=
  if r.fault then busy else busy.set dest.val false

/-- A result writes three components, each from what that component held. -/
theorem writeback_eq (s : State) (dest : PReg) (r : AluResult) :
    s.writeback dest r = { s with prf := s.prf.set dest.val r.value, busy := r.clearBusy dest s.busy, iq := s.iq.map (r.broadcast dest) } := by
  unfold State.writeback AluResult.clearBusy
  cases hf : r.fault with
  | true =>
    have hnone : r.broadcast dest = id := funext fun q => by simp [AluResult.broadcast, hf]
    simp [hnone, State.writePrf]
  | false =>
    have hall : r.broadcast dest = wakeEntry dest r.value := funext fun q => by simp [AluResult.broadcast, hf]
    rw [hall]
    rfl

theorem isBusy_writeback (s : State) (dest p : PReg) (r : AluResult) :
    (s.writeback dest r).isBusy p = if p = dest ∧ r.fault = false then false else s.isBusy p := by
  cases hf : r.fault with
  | true => simp [State.writeback, hf]
  | false =>
    have hclear : (s.writeback dest r).isBusy p = (s.writeBusy dest false).isBusy p := isBusy_congr _ _ (by simp [State.writeback, hf]) p
    simpa [hf] using hclear.trans (isBusy_writeBusy s dest p false)

theorem prfAt_writeback (s : State) (dest p : PReg) (r : AluResult) :
    (s.writeback dest r).prfAt p = if p = dest then r.value else s.prfAt p := by
  rw [writeback_eq]
  exact prfAt_writePrf s dest p r.value

/-- Results with different destinations may be written in either order (R206). -/
theorem writeback_comm (s : State) {dest dest' : PReg} (h : dest ≠ dest') (r r' : AluResult) :
    (s.writeback dest r).writeback dest' r' = (s.writeback dest' r').writeback dest r := by
  have hval : dest.val ≠ dest'.val := fun heq => h (Fin.ext heq)
  have hprf : (s.prf.set dest.val r.value).set dest'.val r'.value = (s.prf.set dest'.val r'.value).set dest.val r.value :=
    Vector.set_comm _ _ hval
  have hbusy : r'.clearBusy dest' (r.clearBusy dest s.busy) = r.clearBusy dest (r'.clearBusy dest' s.busy) := by
    unfold AluResult.clearBusy
    split_ifs
    · rfl
    · rfl
    · rfl
    · exact Vector.set_comm _ _ hval
  have hiq : (s.iq.map (r.broadcast dest)).map (r'.broadcast dest') = (s.iq.map (r'.broadcast dest')).map (r.broadcast dest) := by
    rw [List.map_map, List.map_map]
    exact List.map_congr_left fun q _ => broadcast_comm h r r' q
  simp only [writeback_eq, hprf, hbusy, hiq]

/-! ### One entry -/

/-- An entry executed is its mark, where there is one to make, and its write-back (R208). -/
theorem executeOne_eq (e : IQEntry) (s : State) :
    executeOne e s = (markDone e.pc (e.result s.params.xlen).fault s.al).elim (.fault .alMiss)
      fun al => .next ((s.withAl al).writeback e.destReg (e.result s.params.xlen)) := by
  rcases executeOne_cases e s with ⟨hmark, hone⟩ | ⟨al, hmark, hone⟩ <;> rw [hone, hmark] <;> rfl

/-- Settles O41: the mark is made behind entries with other PCs, and the write-back is read register by register and operand by operand. -/
theorem executedEntryMarksWritesAndWakes : Obligations.ExecutedEntryMarksWritesAndWakes := by
  unfold Obligations.ExecutedEntryMarksWritesAndWakes
  intro s e pre post a hal ha hpre r
  have hmark := markDone_append_cons r.fault pre post hpre ha
  rw [← hal] at hmark
  set al := pre ++ ({ a with done := true, exc := r.fault } : ALEntry) :: post
  have hone : executeOne e s = .next ((s.withAl al).writeback e.destReg r) := by
    rw [executeOne_eq]
    exact congrArg (Option.elim · _ _) hmark
  refine ⟨_, hone, ?al, ?written, ?otherValues, ?cleared, ?otherBits, ?length, ?operands, ?frame⟩
  case al => rw [writeback_eq]; rfl
  case written => rw [prfAt_writeback, if_pos rfl]
  case otherValues => exact fun p hp => (prfAt_writeback _ _ p r).trans (if_neg hp)
  case cleared =>
    rw [isBusy_writeback]
    cases r.fault <;> simp [State.isBusy]
  case otherBits => exact fun p hp => (isBusy_writeback _ _ p r).trans (if_neg fun h => hp h.1)
  case length => simp [writeback_eq]
  case operands =>
    intro k q x hq hx
    obtain rfl : x = r.broadcast e.destReg q := by
      have hwoken : (s.iq.map (r.broadcast e.destReg))[k]? = some x := by simpa [writeback_eq] using hx
      rw [List.getElem?_map, hq] at hwoken
      exact (Option.some.inj hwoken).symm
    have hA := forwardTo_fields e.destReg r q.operandA
    have hB := forwardTo_fields e.destReg r q.operandB
    rw [← broadcast_operandA] at hA
    rw [← broadcast_operandB] at hB
    exact ⟨broadcast_destReg _ r q, broadcast_opCode _ r q, broadcast_pc _ r q, hA, hB⟩
  case frame => simp [writeback_eq]

/-! ### The latch in any order (R206) -/

theorem andThen_assoc (o : Result) (f g : State → Result) : andThen (andThen o f) g = andThen o fun t => andThen (f t) g := by
  cases o <;> rfl

/-- Two entries executed are both marks, if they can be made, and both write-backs. -/
theorem executeOne_andThen_executeOne (e e' : IQEntry) (s : State) :
    let r := e.result s.params.xlen
    let r' := e'.result s.params.xlen
    andThen (executeOne e s) (executeOne e') = ((markDone e.pc r.fault s.al).bind (markDone e'.pc r'.fault)).elim (.fault .alMiss)
      fun al => .next (((s.withAl al).writeback e.destReg r).writeback e'.destReg r') := by
  intro r r'
  rw [executeOne_eq]
  cases markDone e.pc r.fault s.al with
  | none => rfl
  | some al =>
    simp only [Option.elim_some, Option.bind_some, andThen_next, executeOne_eq, writeback_eq]
    rfl

theorem executeOne_comm {e e' : IQEntry} (hpc : e.pc ≠ e'.pc) (hdest : e.destReg ≠ e'.destReg) (s : State) :
    andThen (executeOne e s) (executeOne e') = andThen (executeOne e' s) (executeOne e) := by
  rw [executeOne_andThen_executeOne, executeOne_andThen_executeOne, markDone_comm _ _ _ hpc]
  simp only [writeback_comm _ hdest]

theorem executeLoop_perm {latch latch' : List IQEntry} (h : latch.Perm latch') (hpcs : (latch.map IQEntry.pc).Nodup)
    (hdests : (latch.map IQEntry.destReg).Nodup) (s : State) : executeLoop latch s = executeLoop latch' s := by
  induction h generalizing s with
  | nil => rfl
  | cons e _ ih => exact congrArg (andThen (executeOne e s)) (funext (ih (List.Nodup.of_cons hpcs) (List.Nodup.of_cons hdests)))
  | swap e e' rest =>
    have hpc : e'.pc ≠ e.pc := fun h => (List.nodup_cons.mp hpcs).1 (h ▸ List.mem_cons_self)
    have hdest : e'.destReg ≠ e.destReg := fun h => (List.nodup_cons.mp hdests).1 (h ▸ List.mem_cons_self)
    calc executeLoop (e' :: e :: rest) s
        = andThen (andThen (executeOne e' s) (executeOne e)) (executeLoop rest) := (andThen_assoc _ _ _).symm
      _ = andThen (andThen (executeOne e s) (executeOne e')) (executeLoop rest) := by rw [executeOne_comm hpc hdest]
      _ = executeLoop (e :: e' :: rest) s := andThen_assoc _ _ _
  | trans hperm _ ih ih' =>
    exact (ih hpcs hdests s).trans (ih' ((hperm.map _).nodup_iff.mp hpcs) ((hperm.map _).nodup_iff.mp hdests) s)

/-- No entry's execution reads or writes the latch. -/
theorem executeOne_withExecLatch (e : IQEntry) (l : List IQEntry) (s : State) :
    executeOne e (s.withExecLatch l) = andThen (executeOne e s) fun t => .next (t.withExecLatch l) := by
  rw [executeOne_eq, executeOne_eq, withExecLatch_al, withExecLatch_params]
  cases markDone e.pc (e.result s.params.xlen).fault s.al with
  | none => rfl
  | some al =>
    simp only [Option.elim_some, andThen_next, writeback_eq]
    rfl

theorem executeLoop_withExecLatch (latch l : List IQEntry) (s : State) :
    executeLoop latch (s.withExecLatch l) = andThen (executeLoop latch s) fun t => .next (t.withExecLatch l) := by
  induction latch generalizing s with
  | nil => rfl
  | cons e rest ih =>
    rw [executeLoop, executeOne_withExecLatch, andThen_assoc, executeLoop, andThen_assoc]
    exact congrArg (andThen (executeOne e s)) (funext ih)

/-- Settles O42: neighbours in the latch may change places, and the loop does not see the latch it is emptied of. -/
theorem latchOrderDoesNotMatter : Obligations.LatchOrderDoesNotMatter := by
  unfold Obligations.LatchOrderDoesNotMatter
  intro s latch hperm hpcs hdests
  have hloop : executeLoop latch s = executeLoop s.execLatch s := (executeLoop_perm hperm hpcs hdests s).symm
  have hlatch : (s.withExecLatch latch).execLatch = latch := rfl
  rw [execute, execute, hlatch, executeLoop_withExecLatch, andThen_assoc, hloop]
  rfl

end Sys2Proof.Machine

/-! What executing a latch leaves unchanged (`44_execute_forward.md` rules R200 to R205), and that it always answers under the invariant, so that a step ends in a fault
at a location that does not decode alone (R202, `40_cycle.md` rule R128). -/

namespace Sys2Proof.Machine

/-! ### The frame of Execute -/

/-- What no broadcast changes of an Issue Queue entry. -/
def IQEntry.identity (q : IQEntry) : PReg × Opcode × Nat := (q.destReg, q.opCode, q.pc)

theorem broadcast_identity (dest : PReg) (r : AluResult) (q : IQEntry) : (r.broadcast dest q).identity = q.identity := by
  rw [IQEntry.identity, broadcast_destReg, broadcast_opCode, broadcast_pc, IQEntry.identity]

/-- Of the Busy bits, the Active List and the Issue Queue, `t` has what `s` has but for the bits of the registers `dests`, the flags and the operands. -/
structure State.KeptBut (dests : List PReg) (s t : State) : Prop where
  busy : ∀ p, p ∉ dests → t.isBusy p = s.isBusy p
  al : t.al.map ALEntry.identity = s.al.map ALEntry.identity
  iq : t.iq.map IQEntry.identity = s.iq.map IQEntry.identity

theorem executeOne_keptBut {e : IQEntry} {s t : State} (h : executeOne e s = .next t) : State.KeptBut [e.destReg] s t := by
  rcases executeOne_cases e s with ⟨-, hfault⟩ | ⟨al, hmark, hnext⟩
  · rw [hfault] at h
    cases h
  · rw [hnext] at h
    cases h
    refine { busy := fun p hp => ?busy, al := ?al, iq := ?iq }
    case busy => exact (isBusy_writeback _ _ p _).trans (if_neg fun h => hp (List.mem_singleton.mpr h.1))
    case al =>
      rw [writeback_eq]
      exact markDone_identities hmark
    case iq =>
      rw [writeback_eq, List.map_map]
      exact List.map_congr_left fun q _ => broadcast_identity _ _ q

theorem executeLoop_keptBut (latch : List IQEntry) {s t : State} (h : executeLoop latch s = .next t) :
    State.KeptBut (latch.map IQEntry.destReg) s t := by
  induction latch generalizing s with
  | nil =>
    cases h
    exact ⟨fun _ _ => rfl, rfl, rfl⟩
  | cons e rest ih =>
    obtain ⟨u, hu, hrest⟩ := (andThen_eq_next_iff _ _ _).mp h
    have hfirst := executeOne_keptBut hu
    have hothers := ih hrest
    refine ⟨fun p hp => ?_, hothers.al.trans hfirst.al, hothers.iq.trans hfirst.iq⟩
    have hfree : p ∉ [e.destReg] ∧ p ∉ rest.map IQEntry.destReg := by simpa using hp
    exact (hothers.busy p hfree.2).trans (hfirst.busy p hfree.1)

/-- Settles O43: the loop writes four components, of which each entry leaves all but its own; then the latch is emptied. -/
theorem executeKeepsEverythingElse : Obligations.ExecuteKeepsEverythingElse := by
  unfold Obligations.ExecuteKeepsEverythingElse
  intro s t h
  obtain ⟨u, hu, ht⟩ := (andThen_eq_next_iff _ _ _).mp h
  have hkept := executeLoop_keptBut _ hu
  have hprf := execute_prfAt s t
  obtain ⟨al, prf, busy, iq, hframe⟩ := execute_frame s t h
  cases ht
  have hregisters : ∀ p, (∀ e ∈ s.execLatch, e.destReg ≠ p) →
      (u.withExecLatch []).prfAt p = s.prfAt p ∧ (u.withExecLatch []).isBusy p = s.isBusy p := by
    intro p hp
    have hother : p ∉ s.execLatch.map IQEntry.destReg := by simpa using hp
    exact ⟨hprf p h hp, hkept.busy p hother⟩
  refine ⟨rfl, ?_, ?_, ?_, ?_, ?_, ?_, ?_, ?_, ?_, ?_, hregisters, hkept.al, hkept.iq⟩ <;> rw [hframe]

/-! ### Execute answers -/

theorem executeOne_answers {e : IQEntry} {s : State} (h : e.pc ∈ s.al.map ALEntry.pc) : ∃ t, executeOne e s = .next t := by
  rcases executeOne_cases e s with ⟨hnone, -⟩ | ⟨al, -, hnext⟩
  · obtain ⟨a, ha, hpc⟩ := List.mem_map.mp h
    exact absurd hpc ((markDone_eq_none_iff _ _ _).mp hnone a ha)
  · exact ⟨_, hnext⟩

/-- The Active List keeps its PCs, so no entry of the latch takes away what a later one asks for (R202). -/
theorem executeLoop_answers (latch : List IQEntry) {s : State} (h : ∀ e ∈ latch, e.pc ∈ s.al.map ALEntry.pc) : ∃ t, executeLoop latch s = .next t := by
  induction latch generalizing s with
  | nil => exact ⟨s, rfl⟩
  | cons e rest ih =>
    obtain ⟨he, hrest⟩ := List.forall_mem_cons.mp h
    obtain ⟨u, hu⟩ := executeOne_answers he
    have hpcs : u.al.map ALEntry.pc = s.al.map ALEntry.pc := by
      simpa [ALEntry.identity, Function.comp_def] using congrArg (List.map fun x => x.2.2) (executeOne_keptBut hu).al
    obtain ⟨t, ht⟩ := ih (hpcs ▸ hrest)
    exact ⟨t, by rw [executeLoop, hu, andThen_next, ht]⟩

/-- Each entry of the latch has its Active List entry (R202, R322). -/
def State.LatchOnList (s : State) : Prop := ∀ e ∈ s.execLatch, e.pc ∈ s.al.map ALEntry.pc

theorem execute_answers {s : State} (h : s.LatchOnList) : ∃ t, execute s = .next t := by
  obtain ⟨u, hu⟩ := executeLoop_answers _ h
  exact ⟨u.withExecLatch [], by rw [execute, hu, andThen_next]⟩

/-- What the latch waits to mark is not `Done`, so Commit does not retire it (R254, R322). -/
theorem commit_latchOnList {s : State} (hlive : s.entriesLive) (hrun : s.mode = .run) : (commit s).1.LatchOnList := by
  obtain ⟨-, -, -, -, hentry, -⟩ := hlive hrun
  obtain ⟨-, -, -, hlatch, -⟩ := commit_frame s
  obtain ⟨pre, post, hal, hpre, hc⟩ := commit_cases s
  have hkept : (commit s).1.al = post := by
    rcases hc with hc | ⟨h, rest, -, -, hc⟩ <;> simp [hc, takeFault_eq]
  intro e he
  rw [hlatch] at he
  obtain ⟨a, ha, hpc, hwaits⟩ := hentry e (List.mem_append_right _ he)
  rw [hal] at ha
  have hpost : a ∈ post := (List.mem_append.mp ha).resolve_left fun hin => by simp [(hpre a hin).1] at hwaits
  rw [hkept]
  exact List.mem_map.mpr ⟨a, hpost, hpc⟩

/-! ### What stops a step -/

/-- The outcome is a next state, or the fatal decode error of a program that does not all decode (R128, R297). -/
def State.StopsOnlyToDecode (s : State) (o : Result) : Prop :=
  (∃ t, o = .next t) ∨ ∃ index why, o = .fault (.decodeError index why) ∧ ¬ s.Decodable

theorem fetchDecode_stopsOnlyToDecode (s : State) : s.StopsOnlyToDecode (fetchDecode s) := by
  by_cases hdecodable : s.Decodable
  · obtain ⟨t, ht, -⟩ := fetchDecode_moves hdecodable
    exact .inl ⟨t, ht⟩
  · by_cases hdb : s.db = []
    · rcases fetchFrom_pc_cases s with ⟨batch, hbatch, -⟩ | ⟨j, -, -, why, herror⟩
      · exact .inl ⟨_, fetchDecode_of_fetchFrom_ok hdb hbatch⟩
      · exact .inr ⟨_, why, fetchDecode_of_fetchFrom_error hdb herror, hdecodable⟩
    · exact .inl ⟨s, fetchDecode_of_db_ne_nil hdb⟩

theorem laterStages_stopsOnlyToDecode {s : State} (h : s.LatchOnList) : s.StopsOnlyToDecode (laterStages s) := by
  obtain ⟨e, he⟩ := execute_answers h
  obtain ⟨d, hd⟩ := dispatchLoop_answers_next (issue e).db [] (issue e)
  have hlater : laterStages s = fetchDecode d := by
    rw [laterStages, he, andThen_next, dispatch, hd, andThen_next]
  obtain ⟨al, prf, busy, iq, rfl⟩ := execute_frame s e he
  obtain ⟨-, -, -, -, -, -, hprog, hparams, -⟩ := dispatchLoop_frame _ _ _ d hd
  have hsame : d.Decodable ↔ s.Decodable := by
    rw [State.Decodable, hprog, hparams]
    rfl
  rw [hlater]
  simpa only [State.StopsOnlyToDecode, hsame] using fetchDecode_stopsOnlyToDecode d

/-- A cycle is cut short after Commit, or is its later stages (R121, R277). -/
theorem runCycle_eq (s : State) :
    runCycle s = if (commit s).2 && !(commit s).1.params.faultCycleCompletes then .next (finishCycle true (commit s).1)
      else andThen (laterStages (commit s).1) fun u => .next (finishCycle (commit s).2 u) := rfl

theorem runCycle_stopsOnlyToDecode {s : State} (h : (commit s).1.LatchOnList) : s.StopsOnlyToDecode (runCycle s) := by
  obtain ⟨-, -, -, -, -, hprog, hparams⟩ := commit_frame s
  rw [runCycle_eq]
  split
  · exact .inl ⟨_, rfl⟩
  · rcases laterStages_stopsOnlyToDecode h with ⟨u, hu⟩ | ⟨index, why, hfault, hundecodable⟩
    · exact .inl ⟨_, by rw [hu, andThen_next]⟩
    · rw [State.Decodable, hprog, hparams] at hundecodable
      exact .inr ⟨index, why, by rw [hfault, andThen_fault], hundecodable⟩

/-- Under the invariant only an undecodable location stops a step before the run is over (R128, R202). -/
theorem step_stopsOnlyToDecode {s : State} (hlive : s.entriesLive) (hdone : s.mode ≠ .done) (herror : s.mode ≠ .error) : s.StopsOnlyToDecode (step s) := by
  cases hm : s.mode with
  | run =>
    cases hd : s.drained with
    | true => exact .inl ⟨s.withMode .done, by simp [step, hm, runStep, hd]⟩
    | false =>
      have hcycle : step s = runCycle s := by simp [step, hm, runStep, hd]
      rw [hcycle]
      exact runCycle_stopsOnlyToDecode (commit_latchOnList hlive hm)
  | recover => exact .inl ⟨recoverStep s, by simp [step, hm]⟩
  | recoverFinal => exact .inl ⟨recoverFinalStep s, by simp [step, hm]⟩
  | recoverClear => exact .inl ⟨recoverClearStep s, by simp [step, hm]⟩
  | done => exact absurd hm hdone
  | error => exact absurd hm herror

/-- Settles O57: what stops a step is neither the model's fault nor found in a decodable program. -/
theorem invariantStatesAlwaysStep : Obligations.InvariantStatesAlwaysStep := by
  unfold Obligations.InvariantStatesAlwaysStep
  rintro s ⟨-, -, hlive, -⟩
  refine ⟨fun hmiss => ?_, fun hdecodable hdone herror => ?_⟩
  · obtain ⟨hrun, -⟩ := step_eq_fault s _ hmiss
    rcases step_stopsOnlyToDecode hlive (by simp [hrun]) (by simp [hrun]) with ⟨t, ht⟩ | ⟨index, why, hfault, -⟩
    · cases hmiss.symm.trans ht
    · cases hmiss.symm.trans hfault
  · exact (step_stopsOnlyToDecode hlive hdone herror).resolve_right fun ⟨_, _, _, hundecodable⟩ => hundecodable hdecodable

end Sys2Proof.Machine

/-! What the operations compute (`45_alu_instructions.md` rules R220 to R231): exact values on unsigned words, and when they fault. -/

namespace Sys2Proof.Machine

section
variable (w : Nat)

/-- R221, R222. -/
theorem alu_add (a b : Nat) : alu w .add a b = ⟨(a + b) % 2 ^ w, false⟩ := by
  rw [alu, aluAdd, ← Int.natCast_add, trunc_natCast]

/-- R223, R224. -/
theorem alu_sub (a b : Nat) : alu w .sub a b = ⟨trunc w (a - b), false⟩ := rfl

/-- R225, R226. -/
theorem alu_mulu (a b : Nat) : alu w .mulu a b = ⟨a * b % 2 ^ w, false⟩ := by
  rw [alu, aluMulu, ← Int.natCast_mul, trunc_natCast]

theorem alu_divu {b : Nat} (a : Nat) (hb : b ≠ 0) : alu w .divu a b = ⟨a / b, false⟩ := by
  simp [alu, aluDivu, divideByZero, hb]

theorem alu_remu {b : Nat} (a : Nat) (hb : b ≠ 0) : alu w .remu a b = ⟨a % b, false⟩ := by
  simp [alu, aluRemu, divideByZero, hb]

/-- R227 to R230: a zero divisor faults, whatever the dividend. -/
theorem alu_divu_zero (a : Nat) : alu w .divu a 0 = ⟨0, true⟩ := rfl

theorem alu_remu_zero (a : Nat) : alu w .remu a 0 = ⟨0, true⟩ := rfl

/-- R220: the wrapping operations reduce to the width, and the dividing ones do not exceed the dividend. -/
theorem alu_value_lt {a : Nat} (ha : a < 2 ^ w) (b : Nat) (op : Opcode) : (alu w op a b).value < 2 ^ w := by
  have hdivide : ∀ q, q ≤ a → q < 2 ^ w := fun q hq => Nat.lt_of_le_of_lt hq ha
  cases op with
  | add => exact trunc_lt w (a + b)
  | sub => exact trunc_lt w (a - b)
  | mulu => exact trunc_lt w (a * b)
  | divu =>
    by_cases hb : b = 0
    · rw [hb, alu_divu_zero]
      exact hdivide 0 (Nat.zero_le a)
    · rw [alu_divu w a hb]
      exact hdivide _ (Nat.div_le_self a b)
  | remu =>
    by_cases hb : b = 0
    · rw [hb, alu_remu_zero]
      exact hdivide 0 (Nat.zero_le a)
    · rw [alu_remu w a hb]
      exact hdivide _ (Nat.mod_le a b)

end

/-- Settles O21: each operation's equation, and the division identity of the library for the two that divide. -/
theorem operationsComputeOnUnsignedWords : Obligations.OperationsComputeOnUnsignedWords := by
  unfold Obligations.OperationsComputeOnUnsignedWords
  intro w a b
  refine ⟨?add, ⟨trunc_cast w _, rfl⟩, ?mulu, fun hb => ?divides, ?zero, fun ha => alu_value_lt w ha b⟩
  case add => exact ⟨congrArg AluResult.value (alu_add w a b), rfl⟩
  case mulu => exact ⟨congrArg AluResult.value (alu_mulu w a b), rfl⟩
  case divides =>
    rw [alu_divu w a hb, alu_remu w a hb]
    exact ⟨rfl, rfl, rfl, rfl, (Nat.div_add_mod a b).symm, Nat.mod_lt a (Nat.pos_of_ne_zero hb), Nat.div_le_self a b, Nat.mod_le a b⟩
  case zero =>
    rintro rfl
    exact ⟨alu_divu_zero w a, alu_remu_zero w a⟩

end Sys2Proof.Machine

/-! One instruction alone in the pipeline (`70_reset_and_hazards.md` rule R319): it is dispatched, issues, executes, and in the fourth cycle retires
(`46_commit.md` rules R251, R252) or has its fault taken (R253). -/

namespace Sys2Proof.Machine

/-! ### Stages with nothing to do -/

theorem commit_of_al_nil {s : State} (hal : s.al = []) : commit s = (s, false) := by
  rw [commit, hal, commitLoop_nil]

theorem execute_of_execLatch_nil {s : State} (hlatch : s.execLatch = []) : execute s = .next s := by
  rw [execute, hlatch, executeLoop, andThen_next, ← hlatch]
  rfl

theorem issue_of_iq_nil {s : State} (hiq : s.iq = []) (hlatch : s.execLatch = []) : issue s = s := by
  have hidle : selectReady Config.width s.iq = (s.execLatch, s.iq) := by rw [hiq, hlatch, selectReady_nil]
  rw [issue_eq, hidle]

/-- Past the end of the program, with nothing waiting and nothing issued, the stages after Commit change nothing. -/
theorem laterStages_of_idle {s : State} (hdb : s.db = []) (hiq : s.iq = []) (hlatch : s.execLatch = []) (hpast : s.progLen ≤ s.pc) :
    laterStages s = .next s := by
  rw [laterStages, execute_of_execLatch_nil hlatch, andThen_next, issue_of_iq_nil hiq hlatch, dispatch_of_db_nil hdb, andThen_next,
    fetchDecode_of_past_end hpast]

/-! ### The cycles of one entry -/

/-- A RUN state with nothing to fetch or to dispatch, whose lists are these. -/
abbrev State.Carries (t : State) (al : List ALEntry) (iq latch : List IQEntry) : Prop := t.Settling t t.fl t.prf al iq latch

/-- `t` two cycles later, when the ready entry `e` is all that waits: it has issued and executed. -/
def State.executed (t : State) (e : IQEntry) : State :=
  (((State.emit { t with iq := [], execLatch := [e] }).driveBus (e.bus t.params.xlen)).withExecLatch []).emit

section
variable {t : State} {a : ALEntry} {e : IQEntry}

theorem State.Carries.not_drained {al : List ALEntry} {iq latch : List IQEntry} (h : t.Carries (a :: al) iq latch) : t.drained = false := by
  simp [State.drained, h.al]

theorem State.Carries.commit_of_fresh {iq latch : List IQEntry} (h : t.Carries [a] iq latch) (hfresh : a.done = false ∧ a.exc = false) :
    commit t = (t, false) := by
  rw [commit, h.al, commitLoop_wait _ _ _ hfresh.2 hfresh.1]

/-- R181, R186: the waiting entry, being ready, issues. -/
theorem State.Carries.step_issues (h : t.Carries [a] [e] []) (hfresh : a.done = false ∧ a.exc = false) (hready : e.ready = true) :
    step t = .next (State.emit { t with iq := [], execLatch := [e] }) := by
  have hcommit := h.commit_of_fresh hfresh
  have hissue : issue t = { t with iq := [], execLatch := [e] } := by simp [issue_eq, h.iq, selectReady, hready]
  refine step_of_past_end h.mode h.not_drained (by rw [hcommit]) (by rw [hcommit]; exact execute_of_execLatch_nil h.execLatch) ?_ h.past
  rw [hissue]
  exact dispatch_of_db_nil h.db

/-- R200, R202 to R204: the issued entry executes. -/
theorem State.Carries.step_executes (h : t.Carries [a] [] [e]) (hfresh : a.done = false ∧ a.exc = false) (hpc : a.pc = e.pc) :
    step t = .next (State.emit ((t.driveBus (e.bus t.params.xlen)).withExecLatch [])) := by
  have hcommit := h.commit_of_fresh hfresh
  have hexecute : execute t = .next ((t.driveBus (e.bus t.params.xlen)).withExecLatch []) := by
    rw [executeBlockIsTheStage t (by simp [h.al]) (by simp [h.al, h.execLatch, hpc]), h.execLatch]
    rfl
  have hissue : issue ((t.driveBus (e.bus t.params.xlen)).withExecLatch []) = (t.driveBus (e.bus t.params.xlen)).withExecLatch [] :=
    issue_of_iq_nil (by simp [State.driveBus, h.iq]) rfl
  refine step_of_past_end h.mode h.not_drained (by rw [hcommit]) (by rw [hcommit]; exact hexecute) ?_ h.past
  rw [hissue]
  exact dispatch_of_db_nil h.db

/-- R202: two cycles carry a ready entry through Issue and Execute, and its Active List entry is marked with its fault flag. -/
theorem State.Carries.run_to_execution (h : t.Carries [a] [e] []) (hfresh : a.done = false ∧ a.exc = false) (hready : e.ready = true)
    (hpc : a.pc = e.pc) :
    Host.Core.run Sys2Proof.core 2 t = .next (t.executed e) ∧
      (t.executed e).Carries [{ a with done := true, exc := (e.result t.params.xlen).fault }] [] [] := by
  have hissued : State.Carries (State.emit { t with iq := [], execLatch := [e] }) [a] [] [e] :=
    ⟨h.mode, h.db, h.past, rfl, rfl, rfl, rfl, h.al, rfl, rfl⟩
  have hrun := (core_run_succ 1 (h.step_issues hfresh hready)).trans (core_run_succ 0 (hissued.step_executes hfresh hpc))
  refine ⟨hrun, h.mode, h.db, h.past, rfl, rfl, rfl, rfl, ?marked, ?queue, rfl⟩
  case marked =>
    have hmarked : (t.executed e).al = t.al.map (ALEntry.marked e.pc (e.result t.params.xlen).fault) := rfl
    rw [hmarked, h.al, List.map_singleton, ALEntry.marked, if_pos hpc]
  case queue => exact ite_self _

/-- The fourth cycle does what Commit does, when the stages after it have nothing to do (R121, R277). -/
theorem State.Carries.step_commits (h : t.Carries [a] [] []) {c : State} {fault : Bool} (hcommit : commit t = (c, fault))
    (hlater : laterStages c = .next c) : step t = .next (finishCycle fault c) := by
  have hcycle : step t = runCycle t := by simp [step, h.mode, runStep, h.not_drained]
  rw [hcycle, runCycle, hcommit]
  dsimp only
  split_ifs with hcut
  · rw [(Bool.and_eq_true_iff.mp hcut).1]
  · rw [hlater, andThen_next]

/-- R251, R252: without a fault the instruction retires, and the register it displaced is freed. -/
theorem State.Carries.step_retires (h : t.Carries [a] [] []) (hdone : a.done = true) (hexc : a.exc = false) :
    step t = .next (State.emit { t with al := [], fl := t.fl ++ [a.oldDest] }) :=
  h.step_commits (commit_of_waiting_head (gone := [a]) (kept := []) h.al (by simp [hdone, hexc]) (by simp))
    (laterStages_of_idle h.db h.iq h.execLatch h.past)

/-- R253, R277: with a fault it is taken, and recovery is next, whether or not the fault cycle completes: the vector is no location of the program. -/
theorem State.Carries.step_takes_fault (h : t.Carries [a] [] []) (hexc : a.exc = true) (hfits : programFits t.prog) :
    step t = .next ((t.takeFault a.pc).emit.withMode .recover) :=
  have hcommit : commit t = (t.takeFault a.pc, true) := by rw [commit, h.al, commitLoop_fault _ _ _ hexc]
  h.step_commits hcommit (laterStages_of_idle (s := t.takeFault a.pc) h.db h.iq h.execLatch hfits)

end

/-! ### The instruction dispatched alone -/

/-- The Issue Queue entry of an instruction dispatched alone, with register `p` for its destination. -/
abbrev State.loneEntry (s : State) (i : Instr) (p : PReg) : IQEntry := newIQEntry s i.op i.rs1 i.srcB p

/-- `s` one cycle later, when `i` is all there is to dispatch. -/
def State.dispatchedAlone (s : State) (i : Instr) (p : PReg) (rest : List PReg) : State :=
  ((s.allocate i.op i.rd i.rs1 i.srcB p rest).withDb []).emit

section
variable {s : State} {pc : Nat} {i : Instr} {p : PReg} {rest : List PReg} (h : s.onlyDecoded [⟨pc, i⟩] [p] rest)
include h

/-- R163, R164: a register is free, so the meaning allocates it. -/
theorem exec_of_onlyDecoded : exec i s = .next (s.allocate i.op i.rd i.rs1 i.srcB p rest) := by
  obtain ⟨-, -, -, -, -, hfl, -⟩ := h
  rw [exec_eq_renameDispatch, renameDispatch_cons _ _ _ _ _ p rest hfl]

/-- R121, R160: the first cycle is the meaning, the buffer's emptying and the snapshot. -/
theorem step_dispatches_alone : step s = .next (s.dispatchedAlone i p rest) := by
  have hexec := exec_of_onlyDecoded h
  obtain ⟨hmode, hdb, hal, hiq, hlatch, hfl, -, hpast, -⟩ := h
  have hcommit := commit_of_al_nil hal
  rw [stepRunsTheDecodedInstruction s s pc i hmode hdb (by rw [hcommit]) (by rw [hcommit]; exact execute_of_execLatch_nil hlatch),
    issue_of_iq_nil hiq hlatch, hexec, andThen_next, hfl]
  have hempty : (if ([p] ++ rest).isEmpty then [(⟨pc, i⟩ : DBEntry)] else []) = [] := rfl
  rw [hempty, stalledBuffer_nil, fetchDecode_of_past_end (s := (s.allocate i.op i.rd i.rs1 i.srcB p rest).withDb []) hpast, andThen_next]
  rfl

theorem presentedPC_of_onlyDecoded : s.presentedPC = pc := by
  obtain ⟨-, hdb, -⟩ := h
  rw [State.presentedPC, hdb]

theorem carries_dispatchedAlone :
    (s.dispatchedAlone i p rest).Carries [⟨false, false, i.rd, s.mapOf i.rd, pc⟩] [s.loneEntry i p] [] := by
  have hpc := presentedPC_of_onlyDecoded h
  obtain ⟨hmode, -, hal, hiq, hlatch, -, -, hpast, -⟩ := h
  refine ⟨hmode, rfl, hpast, rfl, rfl, rfl, rfl, ?al, ?iq, hlatch⟩
  case al => rw [← hpc]; exact congrArg (· ++ [newALEntry s i.rd]) hal
  case iq => exact congrArg (· ++ [s.loneEntry i p]) hiq

/-- R162: no source is busy, so the entry has both its operands. -/
theorem loneEntry_operands : (s.loneEntry i p).operandA = ⟨true, 0, s.logical i.rs1⟩ ∧ (s.loneEntry i p).operandB = ⟨true, 0, s.valueB i.srcB⟩ := by
  obtain ⟨-, -, -, -, -, -, -, -, hidle, -⟩ := h
  exact ⟨registerOperand_of_idle hidle i.rs1, operandB_of_idle hidle i.srcB⟩

theorem loneEntry_ready : (s.loneEntry i p).ready = true := by
  obtain ⟨hA, hB⟩ := loneEntry_operands h
  rw [ready_eq_operands, hA, hB]
  rfl

theorem loneEntry_result (w : Nat) : (s.loneEntry i p).result w = alu w i.op (s.logical i.rs1) (s.valueB i.srcB) := by
  obtain ⟨hA, hB⟩ := loneEntry_operands h
  rw [result_eq_alu, hA, hB]
  rfl

end

/-! ### After execution -/

/-- What three cycles leave of `s` when the one instruction `i` has executed with the result `r` in register `p`: it stands alone at the Active List head, and what is
named neither here nor in `Carries` is as it was. -/
structure State.ExecutedAs (s t : State) (pc : Nat) (i : Instr) (p : PReg) (rest : List PReg) (r : AluResult) : Prop where
  carries : t.Carries [⟨true, r.fault, i.rd, s.mapOf i.rd, pc⟩] [] []
  mapOf : ∀ x, t.mapOf x = if x = i.rd then p else s.mapOf x
  prfAt : ∀ q, t.prfAt q = if q = p then r.value else s.prfAt q
  isBusy : ∀ q, t.isBusy q = if q = p then r.fault else s.isBusy q
  fl : t.fl = rest
  pc : t.pc = s.pc
  exception : t.exception = s.exception
  exceptionPC : t.exceptionPC = s.exceptionPC
  prog : t.prog = s.prog
  params : t.params = s.params
  trace : t.trace.length = s.trace.length + 3

/-- R203: the destination, busy since its dispatch, is cleared unless the result faults. -/
theorem isBusy_executed_dispatchedAlone {s : State} {i : Instr} {p : PReg} {rest : List PReg} {r : AluResult}
    (hr : (s.loneEntry i p).result s.params.xlen = r) (q : PReg) :
    ((s.dispatchedAlone i p rest).executed (s.loneEntry i p)).isBusy q = if q = p then r.fault else s.isBusy q := by
  have hbits : ((s.dispatchedAlone i p rest).executed (s.loneEntry i p)).busy =
      if r.fault then (s.writeBusy p true).busy else ((s.writeBusy p true).writeBusy p false).busy := by
    rw [← hr]
    rfl
  cases hfault : r.fault with
  | true =>
    rw [hfault, if_pos rfl] at hbits
    rw [isBusy_congr _ _ hbits, isBusy_writeBusy]
  | false =>
    rw [hfault, if_neg Bool.false_ne_true] at hbits
    rw [isBusy_congr _ _ hbits, isBusy_writeBusy, isBusy_writeBusy]
    split <;> rfl

section
variable {s : State} {pc : Nat} {i : Instr} {p : PReg} {rest : List PReg} {r : AluResult} (h : s.onlyDecoded [⟨pc, i⟩] [p] rest)
include h

theorem executed_dispatchedAlone (hr : alu s.params.xlen i.op (s.logical i.rs1) (s.valueB i.srcB) = r) :
    s.ExecutedAs ((s.dispatchedAlone i p rest).executed (s.loneEntry i p)) pc i p rest r := by
  rw [← loneEntry_result h] at hr
  have hcarries := ((carries_dispatchedAlone h).run_to_execution ⟨rfl, rfl⟩ (loneEntry_ready h) (presentedPC_of_onlyDecoded h).symm).2
  have hvalue : ((s.dispatchedAlone i p rest).executed (s.loneEntry i p)).prf = (s.writePrf p r.value).prf := by rw [← hr]; rfl
  refine ⟨hr ▸ hcarries, fun x => allocate_mapOf (rest := rest) i.op i.rd i.rs1 x i.srcB, fun q => ?values, isBusy_executed_dispatchedAlone hr,
    rfl, rfl, rfl, rfl, rfl, rfl, ?trace⟩
  case values => rw [prfAt_congr _ _ hvalue, prfAt_writePrf]
  case trace => simp [State.executed, State.dispatchedAlone, State.emit, State.driveBus, State.allocate]

/-- R319: what the fourth cycle makes of that, four cycles make of `s`, and three of its dispatch. -/
theorem run_of_last_cycle {t : State} (hlast : step ((s.dispatchedAlone i p rest).executed (s.loneEntry i p)) = .next t) :
    Host.Core.run Sys2Proof.core 3 (s.dispatchedAlone i p rest) = .next t ∧ Host.Core.run Sys2Proof.core 4 s = .next t := by
  obtain ⟨hexecuted, -⟩ := (carries_dispatchedAlone h).run_to_execution ⟨rfl, rfl⟩ (loneEntry_ready h) (presentedPC_of_onlyDecoded h).symm
  have hthree : Host.Core.run Sys2Proof.core 3 (s.dispatchedAlone i p rest) = .next t :=
    (core_run_add 1 hexecuted).trans (core_run_succ 0 hlast)
  exact ⟨hthree, (core_run_succ 3 (step_dispatches_alone h)).trans hthree⟩

end

section
variable {s x : State} {pc : Nat} {i : Instr} {p : PReg} {rest : List PReg} {r : AluResult}

theorem State.ExecutedAs.retires (h : s.ExecutedAs x pc i p rest r) (hclean : r.fault = false) (hfree : ∀ y, s.mapOf y ≠ p) :
    ∃ t, step x = .next t ∧ RetiredWith s t i.rd r.value p rest := by
  obtain ⟨hcarries, hmap, hprf, hbusy, hfl, hpc, hexception, hexceptionPC, hprog, hparams, htrace⟩ := h
  refine ⟨_, hcarries.step_retires rfl hclean, ?value, ?otherValues, (hmap i.rd).trans (if_pos rfl), fun y hy => (hmap y).trans (if_neg hy), ?freed,
    fun q hq => (hprf q).trans (if_neg hq), ((hbusy p).trans (if_pos rfl)).trans hclean, fun q hq => (hbusy q).trans (if_neg hq),
    hcarries.db, rfl, hcarries.iq, hcarries.execLatch, hpc, hexception, hexceptionPC, hcarries.mode, hprog, hparams, ?trace⟩
  case value =>
    have hread : x.logical i.rd = r.value := by rw [State.logical, hmap, if_pos rfl, hprf, if_pos rfl]
    exact hread
  case otherValues =>
    intro y hy
    have hread : x.logical y = s.logical y := by rw [State.logical, hmap, if_neg hy, hprf, if_neg (hfree y)]; rfl
    exact hread
  case freed => exact congrArg (· ++ [s.mapOf i.rd]) hfl
  case trace => exact (List.length_append).trans (congrArg (· + 1) htrace)

theorem State.ExecutedAs.takes_fault (h : s.ExecutedAs x pc i p rest ⟨0, true⟩) (hfits : programFits s.prog) :
    ∃ t, step x = .next t ∧ FaultedWith s t i.rd pc p rest := by
  obtain ⟨hcarries, hmap, hprf, hbusy, hfl, -, -, -, hprog, hparams, htrace⟩ := h
  exact ⟨_, hcarries.step_takes_fault rfl (by rw [hprog]; exact hfits), rfl, rfl, rfl, rfl, hcarries.al, hfl, (hmap i.rd).trans (if_pos rfl),
    fun y hy => (hmap y).trans (if_neg hy), (hprf p).trans (if_pos rfl), fun q hq => (hprf q).trans (if_neg hq), (hbusy p).trans (if_pos rfl),
    fun q hq => (hbusy q).trans (if_neg hq), hcarries.db, hcarries.iq, hcarries.execLatch, hprog, hparams,
    (List.length_append).trans (congrArg (· + 1) htrace)⟩

variable (h : s.onlyDecoded [⟨pc, i⟩] [p] rest)
include h

/-- R319: an instruction alone whose result does not fault retires with that result. -/
theorem retiresAs_of_alu {P : Nat → Prop} (hr : alu s.params.xlen i.op (s.logical i.rs1) (s.valueB i.srcB) = r) (hclean : r.fault = false)
    (hP : P r.value) : RetiresAs i s p rest P := by
  have hexec := exec_of_onlyDecoded h
  have hfree : ∀ y, s.mapOf y ≠ p := by
    obtain ⟨-, -, -, -, -, -, -, -, -, hunmapped⟩ := h
    exact fun y hy => hunmapped y (List.mem_singleton.mpr hy)
  obtain ⟨t, hlast, hretired⟩ := (executed_dispatchedAlone h hr).retires hclean hfree
  obtain ⟨hthree, hfour⟩ := run_of_last_cycle h hlast
  exact ⟨_, t, r.value, hexec, hthree, hfour, hretired, hP⟩

/-- R253, R275, R277: an instruction alone whose result faults has its fault taken. -/
theorem faultsAlone_of_alu (hfits : programFits s.prog) (hr : alu s.params.xlen i.op (s.logical i.rs1) (s.valueB i.srcB) = ⟨0, true⟩) :
    FaultsAlone i s pc p rest := by
  have hexec := exec_of_onlyDecoded h
  obtain ⟨t, hlast, hfaulted⟩ := (executed_dispatchedAlone h hr).takes_fault hfits
  obtain ⟨hthree, hfour⟩ := run_of_last_cycle h hlast
  exact ⟨_, t, hexec, hthree, hfour, hfaulted⟩

end

/-! ### The ten forms -/

/-- Settles O14: both forms compute ADD, of two registers or of a register and the immediate. -/
theorem addRetiresTheWrappedSum : Obligations.AddRetiresTheWrappedSum := by
  unfold Obligations.AddRetiresTheWrappedSum
  intro s pc p rest rd rs1 rs2 v
  exact ⟨fun h => retiresAs_of_alu h (alu_add _ _ _) rfl rfl, fun h => retiresAs_of_alu h (alu_add _ _ _) rfl rfl⟩

/-- Settles O15: both forms compute SUB, whose value is the integer difference reduced. -/
theorem subRetiresTheWrappedDifference : Obligations.SubRetiresTheWrappedDifference := by
  unfold Obligations.SubRetiresTheWrappedDifference
  intro s pc p rest rd rs1 rs2 v
  exact ⟨fun h => retiresAs_of_alu h (alu_sub _ _ _) rfl (trunc_cast _ _), fun h => retiresAs_of_alu h (alu_sub _ _ _) rfl (trunc_cast _ _)⟩

/-- Settles O16: both forms compute MULU. -/
theorem muluRetiresTheLowProduct : Obligations.MuluRetiresTheLowProduct := by
  unfold Obligations.MuluRetiresTheLowProduct
  intro s pc p rest rd rs1 rs2 v
  exact ⟨fun h => retiresAs_of_alu h (alu_mulu _ _ _) rfl rfl, fun h => retiresAs_of_alu h (alu_mulu _ _ _) rfl rfl⟩

/-- Settles O17: both forms compute DIVU, which does not fault here. -/
theorem divuRetiresTheQuotient : Obligations.DivuRetiresTheQuotient := by
  unfold Obligations.DivuRetiresTheQuotient
  intro s pc p rest rd rs1 rs2 v
  exact ⟨fun h hdivisor => retiresAs_of_alu h (alu_divu _ _ hdivisor) rfl rfl, fun h hdivisor => retiresAs_of_alu h (alu_divu _ _ hdivisor) rfl rfl⟩

/-- Settles O18: both forms compute REMU, which does not fault here. -/
theorem remuRetiresTheRemainder : Obligations.RemuRetiresTheRemainder := by
  unfold Obligations.RemuRetiresTheRemainder
  intro s pc p rest rd rs1 rs2 v
  exact ⟨fun h hdivisor => retiresAs_of_alu h (alu_remu _ _ hdivisor) rfl rfl, fun h hdivisor => retiresAs_of_alu h (alu_remu _ _ hdivisor) rfl rfl⟩

/-- Settles O19: the four forms compute DIVU or REMU of a zero divisor, which faults with the value 0. -/
theorem zeroDivisorTakesTheFault : Obligations.ZeroDivisorTakesTheFault := by
  unfold Obligations.ZeroDivisorTakesTheFault
  intro s pc p rest rd rs1 rs2 hfits
  refine ⟨fun h hzero => faultsAlone_of_alu h hfits ?divu, fun h => faultsAlone_of_alu h hfits (alu_divu_zero _ _),
    fun h hzero => faultsAlone_of_alu h hfits ?remu, fun h => faultsAlone_of_alu h hfits (alu_remu_zero _ _)⟩
  case divu => exact hzero ▸ alu_divu_zero s.params.xlen (s.logical rs1)
  case remu => exact hzero ▸ alu_remu_zero s.params.xlen (s.logical rs1)

end Sys2Proof.Machine

/-! Commit behind a run of entries that retire: `46_commit.md` rules R251 to R256. -/

namespace Sys2Proof.Machine

/-- The loop of R256 goes through a run of entries that may retire, however long: they leave, their old destinations are pushed oldest
first, and the loop is at what stood behind them (R251, R252). -/
theorem commitLoop_append_of_retire (pre post : List ALEntry) (s : State) (hpre : ∀ a ∈ pre, a.done = true ∧ a.exc = false) :
    commitLoop (pre ++ post) (s.withAl (pre ++ post)) =
      commitLoop post { s with al := post, fl := s.fl ++ pre.map ALEntry.oldDest } := by
  induction pre generalizing s with
  | nil => simp [State.withAl]
  | cons a pre ih =>
    obtain ⟨⟨hdone, hexc⟩, hrest⟩ := List.forall_mem_cons.mp hpre
    have hretired : ((s.withAl (a :: (pre ++ post))).withAl (pre ++ post)).pushFree a.oldDest = (s.pushFree a.oldDest).withAl (pre ++ post) := rfl
    rw [List.cons_append, commitLoop_retire _ _ _ hexc hdone, hretired, ih _ hrest]
    simp [pushFree_eq]

theorem commit_of_retiring_prefix {s : State} {pre post : List ALEntry} (hal : s.al = pre ++ post)
    (hpre : ∀ a ∈ pre, a.done = true ∧ a.exc = false) :
    commit s = commitLoop post { s with al := post, fl := s.fl ++ pre.map ALEntry.oldDest } := by
  have hsame : s.withAl (pre ++ post) = s := by rw [← hal]; rfl
  rw [← commitLoop_append_of_retire pre post s hpre, hsame, ← hal]
  rfl

/-- Settles O45: behind the run the loop is at the end of the Active List or at an incomplete entry, and either ends it. -/
theorem commitRetiresTheDonePrefix : Obligations.CommitRetiresTheDonePrefix := by
  unfold Obligations.CommitRetiresTheDonePrefix
  intro s pre post hal hpre hpost
  rw [commit_of_retiring_prefix hal hpre]
  obtain rfl | ⟨h, rest, rfl, hexc, hdone⟩ := hpost
  · exact commitLoop_nil _
  · exact commitLoop_wait _ _ _ hexc hdone

/-- Settles O46: behind the run the loop is at the faulting entry, whose fault is taken. -/
theorem commitTakesTheFaultAtTheHead : Obligations.CommitTakesTheFaultAtTheHead := by
  unfold Obligations.CommitTakesTheFaultAtTheHead
  intro s pre post h hal hpre hexc
  rw [commit_of_retiring_prefix hal hpre, commitLoop_fault _ _ _ hexc, takeFault_eq, faultVector_eq]

end Sys2Proof.Machine

/-! What a launch leaves (`70_reset_and_hazards.md` rules R310, R316), the fault cycle (`60_exceptions.md` rule R277) and the two closing recovery steps
(R286, R287). -/

namespace Sys2Proof.Machine

/-! ### Launch -/

theorem launch_of_accepted {inp : LaunchInput} (h : inp.accepted) : launch inp = .next (State.launched inp) := by
  rw [launch, if_pos h.1, if_pos h.2]

/-- R33: the identity mapping. -/
theorem mapOf_launched (inp : LaunchInput) (r : LReg) : ((State.launched inp).mapOf r).val = r.val := by
  have hmap : (State.launched inp).mapOf r = Fin.castLE (by decide) r := Vector.getElem_ofFn _
  rw [hmap, Fin.val_castLE]

theorem isBusy_launched (inp : LaunchInput) (p : PReg) : (State.launched inp).isBusy p = false := Vector.getElem_replicate _

/-- Settles O8: the launch is accepted, and reset sets each component. -/
theorem launchLeavesTheResetValues : Obligations.LaunchLeavesTheResetValues := by
  unfold Obligations.LaunchLeavesTheResetValues
  intro inp haccepted
  have hfree : freeListInit.map Fin.val = List.range' 32 32 := by decide
  exact ⟨State.launched inp, launch_of_accepted haccepted, rfl, rfl, mapOf_launched inp, rfl, isBusy_launched inp, hfree, rfl, rfl, rfl, rfl, rfl, rfl⟩

/-- Settles O9: the length is checked first. -/
theorem longLaunchIsRefused : Obligations.LongLaunchIsRefused := by
  unfold Obligations.LongLaunchIsRefused
  intro inp hlong
  rw [launch, if_neg (Nat.not_le.mpr hlong)]

/-! ### The fault cycle -/

/-- A fault is that of an Active List entry, so the run is not over. -/
theorem step_eq_runCycle_of_fault {s : State} (hrun : s.mode = .run) (hfault : (commit s).2 = true) : step s = runCycle s := by
  obtain ⟨-, -, pre, a, post, hal, -⟩ := commit_of_fault s hfault
  have hgoes : s.drained = false := by simp [State.drained, hal]
  simp [step, hrun, runStep, hgoes]

/-- Settles O48: by default the cycle is cut short after Commit, else the later stages run on what Commit left. -/
theorem faultCycleEntersRecovery : Obligations.FaultCycleEntersRecovery := by
  unfold Obligations.FaultCycleEntersRecovery
  intro s hrun hfault c
  obtain ⟨-, -, -, -, -, -, hparams⟩ := commit_frame s
  rw [step_eq_runCycle_of_fault hrun hfault]
  refine ⟨fun hcut => ?cut, fun hcompletes => ?completes⟩
  case cut => rw [runCycle_of_cut hfault hcut, finishCycle_eq, if_pos rfl]
  case completes =>
    have hgoes : ((commit s).2 && !(commit s).1.params.faultCycleCompletes) = false := by simp [hparams, hcompletes]
    have hfinish : ∀ u : State, finishCycle (commit s).2 u = { u with trace := u.trace ++ [u.snapshot], mode := .recover } := fun u => by
      rw [hfault, finishCycle_eq, if_pos rfl]
    simp only [runCycle_eq, hgoes, laterStages, andThen_assoc, hfinish]
    rfl

/-! ### The closing recovery steps -/

/-- A RECOVER step emits the snapshot of the state it leaves (R281). -/
theorem recoverStep_trace (s : State) : (recoverStep s).trace = s.trace ++ [(recoverStep s).snapshot] := by
  obtain ⟨rat, busy, fl, al, hsquashed⟩ := squashTail_frame 4 (s.withIq [])
  rw [recoverStep_eq, hsquashed]
  rfl

/-- Settles O50: each closing step's equation, and the RECOVER step's snapshot is that of the state the closing step starts from. -/
theorem closingRecoveryStepsEmitAndClear : Obligations.ClosingRecoveryStepsEmitAndClear := by
  unfold Obligations.ClosingRecoveryStepsEmitAndClear
  intro s
  have hfinal : ∀ t : State, t.mode = .recoverFinal → step t = .next { t with trace := t.trace ++ [t.snapshot], mode := .recoverClear } := by
    intro t ht
    simp only [step, ht, recoverFinalStep_eq]
  refine ⟨hfinal s, fun t hrecover hstep ht => ?last, fun hclear => ?clear⟩
  case last =>
    simp only [step, hrecover, Host.Outcome.next.injEq] at hstep
    subst hstep
    exact ⟨_, recoverStep_trace s, hfinal _ ht⟩
  case clear =>
    simp only [step, hclear, recoverClearStep_eq, clearFault_eq]

end Sys2Proof.Machine

/-! The register partition (`70_reset_and_hazards.md` rule R321, `60_exceptions.md` rule R284): each stage and each squash only moves registers between the Free
List, the RAT and the old destinations. -/

namespace Sys2Proof.Machine

/-- The registers R321 counts: free, mapped, and displaced by what is in flight. -/
def State.registers (s : State) : List PReg := s.fl ++ s.rat.toList ++ s.al.map ALEntry.oldDest

theorem registersPartition_of_perm {s t : State} (h : s.registersPartition) (hperm : t.registers.Perm s.registers) : t.registersPartition :=
  hperm.trans h

/-- Of the state, the partition is about the Free List, the RAT and the Active List. -/
theorem registers_congr {s t : State} (hfl : t.fl = s.fl) (hrat : t.rat = s.rat) (hal : t.al.map ALEntry.oldDest = s.al.map ALEntry.oldDest) :
    t.registers = s.registers := by
  rw [State.registers, State.registers, hfl, hrat, hal]

/-- A mapping written: the register that goes in takes the place of the one that comes out. -/
theorem rat_set_perm (rat : Vector PReg Config.nlog) (r : LReg) (p : PReg) :
    (rat[r.val] :: (rat.set r.val p).toList).Perm (p :: rat.toList) := by
  have hr : r.val < rat.toList.length := by simp
  have hget : rat[r.val] = rat.toList[r.val] := by simp
  rw [Vector.toList_set, List.set_eq_take_append_cons_drop, if_pos hr, hget]
  refine (List.perm_middle.cons _).trans ((List.Perm.swap _ _ _).trans (List.Perm.cons p ?_))
  refine List.perm_middle.symm.trans ?_
  rw [List.getElem_cons_drop, List.take_append_drop]

/-! ### The stages of a cycle -/

/-- R252: what retires frees the register it displaced. -/
theorem commit_registers_perm (s : State) : (commit s).1.registers.Perm s.registers := by
  obtain ⟨pre, post, hal, -, hc⟩ := commit_cases s
  have hmoved : ((s.fl ++ pre.map ALEntry.oldDest) ++ s.rat.toList ++ post.map ALEntry.oldDest).Perm s.registers := by
    rw [State.registers, hal, List.map_append, List.append_assoc, List.append_assoc, List.append_assoc]
    exact (List.perm_append_comm_assoc _ _ _).append_left _
  rcases hc with hc | ⟨h, rest, -, -, hc⟩ <;> rw [hc] <;> exact hmoved

theorem execute_registers {s t : State} (h : execute s = .next t) : t.registers = s.registers := by
  obtain ⟨-, hrat, hfl, -, -, -, -, -, -, -, -, -, hal, -⟩ := executeKeepsEverythingElse s t h
  refine registers_congr hfl hrat ?_
  simpa [Function.comp_def] using congrArg (List.map fun x => x.2.1) hal

/-- R164: the new mapping is the free register, and the mapping it displaces becomes an old destination. -/
theorem dispatchEntry_registers_perm (s : State) (e : DBEntry) : (s.dispatchEntry e).registers.Perm s.registers := by
  cases hfl : s.fl with
  | nil =>
    rw [dispatchEntry_of_fl_nil s e hfl]
    exact List.Perm.refl _
  | cons p rest =>
    rw [dispatchEntry_of_fl_cons s e hfl]
    change (rest ++ (s.rat.set e.instr.rd.val p).toList ++ (s.al ++ [newALEntry (s.withDb [e]) e.instr.rd]).map ALEntry.oldDest).Perm _
    have hnew : (newALEntry (s.withDb [e]) e.instr.rd).oldDest = s.rat[e.instr.rd.val] := rfl
    rw [State.registers, hfl, List.map_append, List.map_singleton, hnew]
    refine List.perm_iff_count.mpr fun x => ?_
    have hcount := (rat_set_perm s.rat e.instr.rd p).count_eq x
    simp only [List.count_append, List.count_cons, List.count_nil] at hcount ⊢
    omega

theorem foldl_dispatchEntry_registers_perm (batch : List DBEntry) (s : State) : (batch.foldl State.dispatchEntry s).registers.Perm s.registers := by
  induction batch generalizing s with
  | nil => exact List.Perm.refl _
  | cons e rest ih => exact (ih _).trans (dispatchEntry_registers_perm s e)

theorem dispatch_registers_perm {s t : State} (h : dispatch s = .next t) : t.registers.Perm s.registers := by
  rw [dispatch_eq, Host.Outcome.next.injEq] at h
  subst h
  exact foldl_dispatchEntry_registers_perm s.db (s.withDb [])

theorem fetchDecode_registers {s t : State} (h : fetchDecode s = .next t) : t.registers = s.registers := by
  obtain ⟨db, pc, rfl⟩ := fetchDecode_frame s t h
  rfl

theorem laterStages_registers_perm {s u : State} (h : laterStages s = .next u) : u.registers.Perm s.registers := by
  obtain ⟨e, d, he, hd, hu⟩ := laterStages_eq_next s u h
  have hissue : (issue e).registers = e.registers := rfl
  rw [fetchDecode_registers hu, ← execute_registers he, ← hissue]
  exact dispatch_registers_perm hd

theorem runCycle_registers_perm {s t : State} (h : runCycle s = .next t) : t.registers.Perm s.registers := by
  obtain ⟨u, rfl, ⟨-, rfl⟩ | hlater⟩ := runCycle_cases s t h
  · rw [finishCycle_eq]
    exact commit_registers_perm s
  · rw [finishCycle_eq]
    exact (laterStages_registers_perm hlater).trans (commit_registers_perm s)

/-! ### Recovery -/

/-- R282, R285: the observed squash frees the register the entry displaced; the corrected one maps it again and frees the register the RAT held. -/
theorem squash_registers_perm {s : State} {older : List ALEntry} {a : ALEntry} (hal : s.al = older ++ [a]) :
    ((s.withAl older).squash a).registers.Perm s.registers := by
  have hcount := (rat_set_perm s.rat a.logDest a.oldDest).count_eq
  cases hv : s.params.recoveryVariant with
  | observed =>
    rw [squash_observed (s.withAl older) a hv]
    change (s.fl ++ [a.oldDest] ++ s.rat.toList ++ older.map ALEntry.oldDest).Perm _
    rw [State.registers, hal, List.map_append, List.map_singleton]
    refine List.perm_iff_count.mpr fun x => ?_
    simp only [List.count_append]
    omega
  | corrected =>
    rw [squash_corrected (s.withAl older) a hv]
    change (s.fl ++ [s.rat[a.logDest.val]] ++ (s.rat.set a.logDest.val a.oldDest).toList ++ older.map ALEntry.oldDest).Perm _
    rw [State.registers, hal, List.map_append, List.map_singleton]
    refine List.perm_iff_count.mpr fun x => ?_
    have hx := hcount x
    simp only [List.count_append, List.count_cons, List.count_nil] at hx ⊢
    omega

theorem squashTail_registers_perm (n : Nat) (s : State) : (squashTail n s).registers.Perm s.registers := by
  induction n generalizing s with
  | zero => exact List.Perm.refl _
  | succ n ih =>
    rcases List.eq_nil_or_concat' s.al with hnil | ⟨older, a, hal⟩
    · rw [squashTail_nil _ _ hnil]
    · rw [squashTail_concat _ _ _ _ hal]
      exact (ih _).trans (squash_registers_perm hal)

theorem recoverStep_registers_perm (s : State) : (recoverStep s).registers.Perm s.registers := by
  rw [recoverStep_eq]
  exact squashTail_registers_perm 4 (s.withIq [])

/-- Settles O53: a RUN cycle and a RECOVER step move registers from one place to another; the other steps leave them. -/
theorem everyStepKeepsThePartition : Obligations.EveryStepKeepsThePartition := by
  unfold Obligations.EveryStepKeepsThePartition
  intro s t hpart h
  rcases step_eq_next s t h with ⟨-, -, rfl⟩ | ⟨-, -, hc⟩ | ⟨-, rfl⟩ | ⟨-, rfl⟩ | ⟨-, rfl⟩
  · exact hpart
  · exact registersPartition_of_perm hpart (runCycle_registers_perm hc)
  · exact registersPartition_of_perm hpart (recoverStep_registers_perm s)
  · exact hpart
  · exact hpart

end Sys2Proof.Machine

/-! The recovery as a whole (`60_exceptions.md` rules R280 to R288): every Active List entry squashed, youngest first, then the two closing steps. Undoing the
youngest renaming gives back the map that the destinations of the older entries are read from (R285). -/

namespace Sys2Proof.Machine

/-! ### Destinations -/

theorem destinations_cons (a : ALEntry) (rest : List ALEntry) (rat : Vector PReg Config.nlog) :
    destinations (a :: rest) rat =
      (rest.find? fun b => b.logDest = a.logDest).elim rat[a.logDest.val] ALEntry.oldDest :: destinations rest rat := by
  rw [destinations]
  cases rest.find? fun b => b.logDest = a.logDest <;> rfl

/-- What the youngest entry renamed is in the RAT; the older entries' destinations are those of the map before that renaming (R164). -/
theorem destinations_concat (al : List ALEntry) (a : ALEntry) (rat : Vector PReg Config.nlog) :
    destinations (al ++ [a]) rat = destinations al (rat.set a.logDest.val a.oldDest) ++ [rat[a.logDest.val]] := by
  induction al with
  | nil => rfl
  | cons b rest ih =>
    have hhead : ((rest ++ [a]).find? fun c => c.logDest = b.logDest).elim rat[b.logDest.val] ALEntry.oldDest =
        (rest.find? fun c => c.logDest = b.logDest).elim (rat.set a.logDest.val a.oldDest)[b.logDest.val] ALEntry.oldDest := by
      rw [List.find?_append]
      cases rest.find? fun c => c.logDest = b.logDest with
      | some c => rfl
      | none =>
        by_cases h : a.logDest = b.logDest
        · simp [h]
        · have hval : a.logDest.val ≠ b.logDest.val := fun heq => h (Fin.ext heq)
          simp [h, Vector.getElem_set_ne, hval]
    rw [List.cons_append, destinations_cons, ih, hhead, destinations_cons, List.cons_append]

/-- The mapping of `r` with every renaming in flight undone: what its oldest entry displaced, and where it has none the RAT's (R285). -/
def State.restoredMap (s : State) (r : LReg) : PReg := (s.al.find? fun a => a.logDest = r).elim (s.mapOf r) ALEntry.oldDest

/-! ### All entries squashed -/

/-- The recovery's work in one piece: the Issue Queue flushed and the whole Active List squashed from the tail (R281). -/
def State.squashAll (s : State) : State := s.al.reverse.foldl State.squash ((s.withIq []).withAl [])

/-- A state whose Active List, mode and trace are these. -/
def State.atStage (s : State) (al : List ALEntry) (m : Mode) (trace : List Snapshot) : State := { s with al := al, mode := m, trace := trace }

/-- A squash neither reads nor writes the Active List, the mode and the trace. -/
theorem squash_atStage (s : State) (al : List ALEntry) (m : Mode) (trace : List Snapshot) (e : ALEntry) :
    (s.atStage al m trace).squash e = (s.squash e).atStage al m trace := by
  cases hv : s.params.recoveryVariant with
  | observed => rw [squash_observed s e hv, squash_observed (s.atStage al m trace) e hv]; rfl
  | corrected => rw [squash_corrected s e hv, squash_corrected (s.atStage al m trace) e hv]; rfl

theorem foldl_squash_atStage (gone : List ALEntry) (s : State) (al : List ALEntry) (m : Mode) (trace : List Snapshot) :
    gone.foldl State.squash (s.atStage al m trace) = (gone.foldl State.squash s).atStage al m trace := by
  induction gone generalizing s with
  | nil => rfl
  | cons e rest ih => rw [List.foldl_cons, squash_atStage, ih, List.foldl_cons]

theorem foldl_squash_frame (gone : List ALEntry) (s : State) : ∃ rat busy fl, gone.foldl State.squash s = { s with rat := rat, busy := busy, fl := fl } := by
  induction gone generalizing s with
  | nil => exact ⟨_, _, _, rfl⟩
  | cons e rest ih =>
    obtain ⟨rat, busy, fl, hsquashed⟩ := squash_frame s e
    rw [List.foldl_cons, hsquashed]
    exact ih _

/-- A RECOVER step squashes the youngest four entries, the Issue Queue being empty (R281). -/
theorem recoverStep_eq_foldl (s : State) :
    ∃ m trace, recoverStep s = ((s.al.reverse.take 4).foldl State.squash (s.withIq [])).atStage (s.al.take (s.al.length - 4)) m trace := by
  refine ⟨(recoverStep s).mode, (recoverStep s).trace, ?_⟩
  rw [recoverStep_eq, squashTail_eq_foldl]
  exact congrArg (State.atStage · _ _ _) (foldl_squash_atStage (s.al.reverse.take 4) (s.withIq []) (s.al.take (s.al.length - 4)) s.mode s.trace)

theorem recoverStep_al (s : State) : (recoverStep s).al = s.al.take (s.al.length - 4) := by
  obtain ⟨m, trace, hstep⟩ := recoverStep_eq_foldl s
  rw [hstep]
  rfl

theorem recoverStep_iq (s : State) : (recoverStep s).iq = [] := by
  obtain ⟨m, trace, hstep⟩ := recoverStep_eq_foldl s
  obtain ⟨rat, busy, fl, hframe⟩ := foldl_squash_frame (s.al.reverse.take 4) (s.withIq [])
  rw [hstep, hframe]
  rfl

theorem squashAll_of_al_nil {s : State} (hal : s.al = []) (hiq : s.iq = []) : s.squashAll = s := by
  rw [State.squashAll, hal, List.reverse_nil, List.foldl_nil, ← hal, ← hiq]
  rfl

/-- A RECOVER step does part of the recovery's work, and leaves the rest of it. -/
theorem squashAll_recoverStep (s : State) (m : Mode) (trace : List Snapshot) :
    (recoverStep s).squashAll.atStage [] m trace = s.squashAll.atStage [] m trace := by
  obtain ⟨m', trace', hstep⟩ := recoverStep_eq_foldl s
  have hrest : (recoverStep s).al.reverse = s.al.reverse.drop 4 := by rw [recoverStep_al, List.drop_reverse]
  have hstart : (((recoverStep s).withIq []).withAl []).atStage [] m trace =
      ((s.al.reverse.take 4).foldl State.squash (s.withIq [])).atStage [] m trace := by
    have hempty : (recoverStep s).withIq [] = recoverStep s := by
      rw [← recoverStep_iq s]
      rfl
    rw [hempty, hstep]
    rfl
  calc (recoverStep s).squashAll.atStage [] m trace
      = (s.al.reverse.drop 4).foldl State.squash (((s.al.reverse.take 4).foldl State.squash (s.withIq [])).atStage [] m trace) := by
        rw [State.squashAll, ← foldl_squash_atStage, hstart, hrest]
    _ = (s.al.reverse.foldl State.squash (s.withIq [])).atStage [] m trace := by
        rw [foldl_squash_atStage, ← List.foldl_append, List.take_append_drop]
    _ = s.squashAll.atStage [] m trace := by
        rw [State.squashAll, ← foldl_squash_atStage, ← foldl_squash_atStage]
        rfl

/-! ### The recovery's steps -/

theorem step_of_recover {s : State} (hmode : s.mode = .recover) : step s = .next (recoverStep s) := by simp [step, hmode]

/-- R280, R281: the RECOVER steps squash every entry, four a step, with a snapshot each. -/
theorem run_of_recover (n : Nat) {s : State} (hmode : s.mode = .recover) (hlow : 4 * n < s.al.length) (hhigh : s.al.length ≤ 4 * n + 4) :
    ∃ trace, Host.Core.run Sys2Proof.core (n + 1) s = .next (s.squashAll.atStage [] .recoverFinal trace) ∧ trace.length = s.trace.length + (n + 1) := by
  induction n generalizing s with
  | zero =>
    have hlast : (recoverStep s).al = [] := by rw [recoverStep_al, Nat.sub_eq_zero_of_le hhigh, List.take_zero]
    have hnext : (recoverStep s).mode = .recoverFinal := by rw [recoverStep_mode, if_pos hhigh]
    have hrun : Host.Core.run Sys2Proof.core 1 s = .next (recoverStep s) := core_run_succ 0 (step_of_recover hmode)
    have hall : recoverStep s = s.squashAll.atStage [] .recoverFinal (recoverStep s).trace := by
      rw [← squashAll_recoverStep, squashAll_of_al_nil hlast (recoverStep_iq s), ← hlast, ← hnext]
      rfl
    exact ⟨(recoverStep s).trace, hrun.trans (congrArg _ hall), by simp [recoverStep_trace]⟩
  | succ n ih =>
    have hlength : (recoverStep s).al.length = s.al.length - 4 := by
      rw [recoverStep_al, List.length_take]
      omega
    have hnext : (recoverStep s).mode = .recover := by rw [recoverStep_mode, if_neg (by omega), hmode]
    obtain ⟨trace, hrun, hcount⟩ := ih hnext (by omega) (by omega)
    have htrace : (recoverStep s).trace.length = s.trace.length + 1 := by simp [recoverStep_trace]
    exact ⟨trace, by rw [core_run_succ (n + 1) (step_of_recover hmode), hrun, squashAll_recoverStep], by omega⟩

/-- R286, R287: the closing steps emit a snapshot each, clear the fault indicator and end the run. -/
theorem run_of_recoverFinal {s : State} (hmode : s.mode = .recoverFinal) :
    Host.Core.run Sys2Proof.core 2 s =
      .next { s with exception := false, mode := .done, trace := s.trace ++ [s.snapshot, s.clearFault.snapshot] } := by
  have hfinal : step s = .next (recoverFinalStep s) := by simp [step, hmode]
  rw [core_run_succ 1 hfinal, core_run_succ 0 (u := recoverClearStep (recoverFinalStep s)) rfl, recoverClearStep_eq, recoverFinalStep_eq]
  simp only [Host.Core.run, List.append_assoc]
  rfl

/-- R280, R286, R287: a recovery of `m` entries ends the run in ceil(m / 4) + 2 steps, every entry squashed. -/
theorem run_to_done_of_recover {s : State} (hmode : s.mode = .recover) (hal : s.al ≠ []) :
    ∃ trace, Host.Core.run Sys2Proof.core ((s.al.length + 3) / 4 + 2) s = .next { s.squashAll.atStage [] .done trace with exception := false } ∧
      trace.length = s.trace.length + ((s.al.length + 3) / 4 + 2) := by
  have hpos := List.length_pos_iff.mpr hal
  obtain ⟨n, hn⟩ : ∃ n, (s.al.length + 3) / 4 = n + 1 := ⟨(s.al.length + 3) / 4 - 1, by omega⟩
  obtain ⟨trace, hrun, hcount⟩ := run_of_recover n hmode (by omega) (by omega)
  rw [hn, core_run_add 2 hrun, run_of_recoverFinal rfl]
  exact ⟨_, rfl, by simp [State.atStage, hcount, Nat.add_assoc]⟩

/-- Nothing but the RAT, the Busy bits, the three lists, the mode, the trace and the fault indicator changes in a recovery (R283). -/
theorem squashAll_frame (s : State) :
    let t := s.squashAll
    t.prf = s.prf ∧ t.pc = s.pc ∧ t.exceptionPC = s.exceptionPC ∧ t.db = s.db ∧ t.execLatch = s.execLatch ∧ t.iq = [] ∧ t.al = [] := by
  obtain ⟨rat, busy, fl, hframe⟩ := foldl_squash_frame s.al.reverse ((s.withIq []).withAl [])
  rw [State.squashAll, hframe]
  exact ⟨rfl, rfl, rfl, rfl, rfl, rfl, rfl⟩

/-! ### The observed variant -/

/-- R282: every old destination is freed, in the order of the squashes, and no mapping and no Busy bit changes. -/
theorem foldl_squash_observed (gone : List ALEntry) (s : State) (hv : s.params.recoveryVariant = .observed) :
    gone.foldl State.squash s = { s with fl := s.fl ++ gone.map ALEntry.oldDest } := by
  induction gone generalizing s with
  | nil => simp
  | cons e rest ih =>
    rw [List.foldl_cons, squash_observed s e hv, ih (s.pushFree e.oldDest) hv]
    simp [pushFree_eq]

/-- Settles O51: the steps squash every entry, and each observed squash frees the old destination alone. -/
theorem observedRecoveryEndsTheRun : Obligations.ObservedRecoveryEndsTheRun := by
  unfold Obligations.ObservedRecoveryEndsTheRun
  intro s hmode hv hal
  obtain ⟨trace, hrun, hcount⟩ := run_to_done_of_recover hmode hal
  have hall := foldl_squash_observed s.al.reverse ((s.withIq []).withAl []) hv
  rw [State.squashAll, hall] at hrun
  exact ⟨_, hrun, rfl, rfl, rfl, rfl, rfl, rfl, rfl, rfl, rfl, rfl, rfl, rfl, hcount⟩

/-! ### The corrected variant -/

theorem squash_corrected_mapOf {s : State} (hv : s.params.recoveryVariant = .corrected) (a : ALEntry) (r : LReg) :
    (s.squash a).mapOf r = if r = a.logDest then a.oldDest else s.mapOf r := by
  rw [squash_corrected s a hv]
  exact mapOf_writeRat s a.logDest r a.oldDest

theorem squash_corrected_isBusy {s : State} (hv : s.params.recoveryVariant = .corrected) (a : ALEntry) (p : PReg) :
    (s.squash a).isBusy p = (s.isBusy p && !decide (p = s.mapOf a.logDest)) := by
  rw [squash_corrected s a hv, isBusy_writeBusy]
  by_cases h : p = s.mapOf a.logDest
  · simp [h]
  · simp [h, pushFree_eq, State.writeRat, State.isBusy]

/-- The RAT and the Free List after the youngest entry of a list is squashed (R285). -/
theorem squash_corrected_rat_fl {s : State} (hv : s.params.recoveryVariant = .corrected) (a : ALEntry) :
    (s.squash a).rat = s.rat.set a.logDest.val a.oldDest ∧ (s.squash a).fl = s.fl ++ [s.mapOf a.logDest] ∧ (s.squash a).params = s.params := by
  rw [squash_corrected s a hv]
  exact ⟨rfl, rfl, rfl⟩

/-- R285: squashed from the tail, each entry finds its own register in the RAT; so the destinations are freed, youngest first. -/
theorem foldl_squash_corrected_fl (al : List ALEntry) (s : State) (hv : s.params.recoveryVariant = .corrected) :
    (al.reverse.foldl State.squash s).fl = s.fl ++ (destinations al s.rat).reverse := by
  induction al using List.reverseRecOn generalizing s with
  | nil => simp [destinations]
  | append_singleton older a ih =>
    obtain ⟨hrat, hfl, hparams⟩ := squash_corrected_rat_fl hv a
    rw [List.reverse_concat, List.foldl_cons, ih _ (hparams ▸ hv), hrat, hfl, destinations_concat, List.reverse_concat, List.append_assoc]
    rfl

theorem foldl_squash_corrected_isBusy (al : List ALEntry) (s : State) (hv : s.params.recoveryVariant = .corrected) (p : PReg) :
    (al.reverse.foldl State.squash s).isBusy p = (s.isBusy p && !(destinations al s.rat).contains p) := by
  induction al using List.reverseRecOn generalizing s with
  | nil => simp [destinations]
  | append_singleton older a ih =>
    obtain ⟨hrat, -, hparams⟩ := squash_corrected_rat_fl hv a
    have hown : s.rat[a.logDest.val] = s.mapOf a.logDest := rfl
    rw [List.reverse_concat, List.foldl_cons, ih _ (hparams ▸ hv), hrat, squash_corrected_isBusy hv, destinations_concat, hown]
    simp only [List.contains_eq_mem, List.mem_append, List.mem_singleton, Bool.decide_or, Bool.not_or, Bool.and_assoc]
    rw [Bool.and_comm (!decide (p = _))]

/-- R285: the last squash of a register is that of its oldest entry. -/
theorem foldl_squash_corrected_mapOf (al : List ALEntry) (s : State) (hv : s.params.recoveryVariant = .corrected) (r : LReg) :
    (al.reverse.foldl State.squash s).mapOf r = (s.withAl al).restoredMap r := by
  induction al using List.reverseRecOn generalizing s with
  | nil => rfl
  | append_singleton older a ih =>
    obtain ⟨-, -, hparams⟩ := squash_corrected_rat_fl hv a
    have hmap : ((s.squash a).withAl older).mapOf r = if r = a.logDest then a.oldDest else s.mapOf r := squash_corrected_mapOf hv a r
    have hsame : (s.withAl (older ++ [a])).mapOf r = s.mapOf r := rfl
    rw [List.reverse_concat, List.foldl_cons, ih _ (hparams ▸ hv), State.restoredMap, State.restoredMap, hmap, hsame, withAl_al, withAl_al, List.find?_append]
    cases older.find? fun b => b.logDest = r with
    | some b => rfl
    | none =>
      by_cases h : r = a.logDest
      · simp [h]
      · simp [h, Ne.symm h]

/-- R321 with nothing in flight: a register is free exactly when the RAT does not map it. -/
theorem mem_fl_iff_of_al_nil {s : State} (hpart : s.registersPartition) (hal : s.al = []) (p : PReg) : p ∈ s.fl ↔ ∀ r, s.mapOf r ≠ p := by
  have hperm : (s.fl ++ s.rat.toList).Perm (List.finRange Config.nphys) := by
    have h := hpart
    rw [State.registersPartition, hal, List.map_nil, List.append_nil] at h
    exact h
  have hmapped : p ∈ s.rat.toList ↔ ∃ r, s.mapOf r = p := by
    rw [Vector.mem_toList_iff, Vector.mem_iff_getElem]
    exact ⟨fun ⟨i, hi, h⟩ => ⟨⟨i, hi⟩, h⟩, fun ⟨r, h⟩ => ⟨r.val, r.isLt, h⟩⟩
  have hdisjoint := List.disjoint_of_nodup_append (hperm.nodup_iff.mpr (List.nodup_finRange _))
  rw [← not_exists, ← hmapped]
  refine ⟨fun hfree => hdisjoint hfree, fun hnot => ?_⟩
  exact (List.mem_append.mp (hperm.mem_iff.mpr (List.mem_finRange p))).resolve_right hnot

/-- A run keeps what every step keeps. -/
theorem run_keeps {P : State → Prop} (hstep : ∀ s t, P s → step s = .next t → P t) (k : Nat) {s t : State} (hs : P s)
    (hrun : Host.Core.run Sys2Proof.core k s = .next t) : P t := by
  induction k generalizing s with
  | zero =>
    cases hrun
    exact hs
  | succ k ih =>
    cases hnext : step s with
    | next u => exact ih (hstep s u hs hnext) (core_run_succ k hnext ▸ hrun)
    | fault r =>
      have hcore : Sys2Proof.core.step s = .fault r := hnext
      simp [Host.Core.run, hcore] at hrun
    | refused r =>
      have hcore : Sys2Proof.core.step s = .refused r := hnext
      simp [Host.Core.run, hcore] at hrun

/-- Settles O52: the steps squash every entry, each corrected squash undoes the youngest renaming left, and the run keeps the partition. -/
theorem correctedRecoveryRestoresTheMap : Obligations.CorrectedRecoveryRestoresTheMap := by
  unfold Obligations.CorrectedRecoveryRestoresTheMap
  intro s hmode hv hal
  obtain ⟨trace, hrun, -⟩ := run_to_done_of_recover hmode hal
  obtain ⟨hprf, hpc, hepc, hdb, hlatch, hiq, -⟩ := squashAll_frame s
  refine ⟨_, hrun, rfl, rfl, rfl, hiq, ?freed, ?restored, ?idle, fun hpart => ?partitioned, hprf, hpc, hepc, hdb, hlatch⟩
  case freed => exact foldl_squash_corrected_fl s.al ((s.withIq []).withAl []) hv
  case restored =>
    intro r
    have hmap : s.squashAll.mapOf r = s.restoredMap r := foldl_squash_corrected_mapOf s.al ((s.withIq []).withAl []) hv r
    refine hmap.trans ?_
    unfold State.restoredMap
    cases s.al.find? fun a => a.logDest = r <;> rfl
  case idle => exact foldl_squash_corrected_isBusy s.al ((s.withIq []).withAl []) hv
  case partitioned => exact mem_fl_iff_of_al_nil (run_keeps everyStepKeepsThePartition _ hpart hrun) rfl

end Sys2Proof.Machine

/-! The pipeline in program order (`70_reset_and_hazards.md` rules R323, R325): Commit takes from the front of what is in flight, Dispatch moves its middle, and
Fetch/Decode puts the next indices behind it. -/

namespace Sys2Proof.Machine

/-! ### Fetch/Decode -/

/-- What a fetch that answers did: nothing, or it read a batch of consecutive locations that decode (R141 to R143). -/
theorem fetchDecode_eq_next {s t : State} (h : fetchDecode s = .next t) :
    (s.db ≠ [] ∧ t = s) ∨
    (s.db = [] ∧ ∃ batch, t = (s.withDb batch).withPc (s.pc + batch.length) ∧ batch.map DBEntry.pc = List.range' s.pc batch.length ∧
      batch.length ≤ 4 ∧ (batch ≠ [] → s.pc + batch.length ≤ s.progLen) ∧
      ∀ e ∈ batch, Memory.decodesTo s.params.xlen s.prog e.pc e.instr) := by
  by_cases hdb : s.db = []
  · right
    rcases fetchFrom_pc_cases s with ⟨batch, hbatch, hlength, hentries⟩ | ⟨j, -, -, why, herror⟩
    · rw [fetchDecode_of_fetchFrom_ok hdb hbatch, ← hlength, Host.Outcome.next.injEq] at h
      refine ⟨hdb, batch, h.symm, ?_, hlength ▸ fetchCount_le_width _ _, fun hsome => ?_, fun e he => ?_⟩
      · refine List.ext_getElem (by simp) fun j hj _ => ?_
        rw [List.length_map] at hj
        simpa using (hentries j _ (List.getElem?_eq_getElem hj)).1
      · rw [hlength]
        exact pc_add_fetchCount_le _ _ (hlength ▸ mt List.length_eq_zero_iff.mp hsome)
      · obtain ⟨j, hj⟩ := List.mem_iff_getElem?.mp he
        obtain ⟨hpc, hdecode⟩ := hentries j e hj
        rwa [hpc]
    · rw [fetchDecode_of_fetchFrom_error hdb herror] at h
      cases h
  · rw [fetchDecode_of_db_ne_nil hdb, Host.Outcome.next.injEq] at h
    exact .inl ⟨hdb, h.symm⟩

/-- R142, R143: the indices fetched go behind what is in flight or decoded, and `PC` goes past them. -/
theorem fetchDecode_orderedPCs {s t : State} (h : fetchDecode s = .next t) :
    ∃ k, t.orderedPCs = s.orderedPCs ++ List.range' s.pc k ∧ t.pc = s.pc + k ∧ (k ≠ 0 → t.pc ≤ s.progLen) := by
  rcases fetchDecode_eq_next h with ⟨-, rfl⟩ | ⟨hdb, batch, rfl, hpcs, -, hin, -⟩
  · exact ⟨0, by simp⟩
  · refine ⟨batch.length, ?_, rfl, fun hk => hin fun hnil => hk (List.length_eq_zero_iff.mpr hnil)⟩
    simp only [State.orderedPCs, withPc_al, withDb_al, withPc_db, withDb_db, hpcs, hdb, List.map_nil, List.append_nil]

/-! ### Rename/Dispatch, Issue and Execute -/

/-- R163, R165, R168: what is dispatched goes from the front of the buffer to the back of the Active List, and with `Retain` nothing is lost. -/
theorem dispatch_orderedPCs {s t : State} (h : dispatch s = .next t) :
    t.orderedPCs.Sublist s.orderedPCs ∧ (s.params.stallMode = .retain → t.orderedPCs = s.orderedPCs) ∧ t.db.length ≤ s.db.length := by
  obtain ⟨t', newAl, newIq, hnext, -, hal, -, hpcs, -, -, -, -, -, -, -, -, hretain, hdrop, -⟩ := dispatchTakesAPrefixOfTheBatch s
  obtain rfl : t' = t := Host.Outcome.next.inj (hnext.symm.trans h)
  have hbatch : s.orderedPCs = t'.al.map ALEntry.pc ++ (s.db.drop (min s.db.length s.fl.length)).map DBEntry.pc := by
    rw [hal, List.map_append, hpcs, List.append_assoc, ← List.map_append, List.take_append_drop]
  cases hmode : s.params.stallMode with
  | retain =>
    have hsame : t'.orderedPCs = s.orderedPCs := by rw [hbatch, State.orderedPCs, hretain hmode]
    exact ⟨hsame ▸ List.Sublist.refl _, fun _ => hsame, by rw [hretain hmode, List.length_drop]; omega⟩
  | drop =>
    refine ⟨?_, nofun, by simp [hdrop hmode]⟩
    rw [hbatch, State.orderedPCs, hdrop hmode]
    exact (List.nil_sublist _).append_left _

theorem issue_execLatch_length_le (s : State) : (issue s).execLatch.length ≤ 4 := by
  rw [issue_eq, (selectReady_splits_ready Config.width s.iq).1]
  exact List.length_take_le _ _

theorem execute_al_pcs {s t : State} (h : execute s = .next t) : t.al.map ALEntry.pc = s.al.map ALEntry.pc := by
  obtain ⟨-, -, -, -, -, -, -, -, -, -, -, -, hal, -⟩ := executeKeepsEverythingElse s t h
  simpa [Function.comp_def] using congrArg (List.map fun x => x.2.2) hal

/-- R121: the stages after Commit take indices away from what is ordered at most (with `Drop`), and put the fetched ones behind. -/
theorem laterStages_orderedPCs {s u : State} (h : laterStages s = .next u) :
    ∃ l k, l.Sublist s.orderedPCs ∧ (s.params.stallMode = .retain → l = s.orderedPCs) ∧ u.orderedPCs = l ++ List.range' s.pc k ∧
      u.pc = s.pc + k ∧ (k ≠ 0 → u.pc ≤ s.progLen) := by
  obtain ⟨e, d, he, hd, hu⟩ := laterStages_eq_next s u h
  have hpcs := execute_al_pcs he
  obtain ⟨al, prf, busy, iq, hframe⟩ := execute_frame s e he
  obtain ⟨-, hpc, -, -, -, -, hprog, -, -⟩ := dispatchLoop_frame _ _ _ d hd
  obtain ⟨hsub, hretain, -⟩ := dispatch_orderedPCs hd
  obtain ⟨k, hordered, hpc', hin⟩ := fetchDecode_orderedPCs hu
  have hissue : (issue e).orderedPCs = s.orderedPCs := by
    change e.al.map ALEntry.pc ++ e.db.map DBEntry.pc = _
    rw [hpcs, hframe]
  have hsame : (issue e).pc = s.pc ∧ (issue e).prog = s.prog ∧ (issue e).params = s.params := by
    rw [hframe]
    exact ⟨rfl, rfl, rfl⟩
  rw [hsame.1] at hpc
  rw [hissue] at hsub hretain
  rw [hsame.2.2] at hretain
  rw [hpc] at hordered hpc'
  refine ⟨d.orderedPCs, k, hsub, hretain, hordered, hpc', fun hk => ?_⟩
  have hend := hin hk
  rwa [State.progLen, hprog, hsame.2.1] at hend

/-! ### What a RUN state has besides -/

/-- In RUN: `PC` is past what is in flight and at most `N`, and with `Retain` the indices run up to it without a gap (R41, R323). -/
structure State.RunsInOrder (s : State) : Prop where
  past : s.PCPast
  inProgram : s.pc ≤ s.progLen
  consecutive : s.params.stallMode = .retain → (s.orderedPCs ++ [s.pc]).IsChain fun a b => b = a + 1

section
variable {s : State}

theorem pcPast_iff : s.PCPast ↔ s.orderedPCs.Pairwise (· < ·) ∧ (∀ a ∈ s.al, a.pc < s.pc) ∧ ∀ e ∈ s.db, e.pc < s.pc := by
  rw [State.PCPast, List.pairwise_append]
  simp only [List.pairwise_singleton, List.mem_singleton, forall_eq, true_and, List.mem_append, or_imp, forall_and, List.forall_mem_map]

/-- R323 in its parts: what every mode keeps, and what RUN has besides. -/
theorem pipelineOrdered_iff :
    s.pipelineOrdered ↔ s.orderedPCs.Pairwise (· < ·) ∧ programFits s.prog ∧ s.db.length ≤ 4 ∧ s.execLatch.length ≤ 4 ∧
      (∀ a ∈ s.al, a.exc = true → a.done = true) ∧ (s.mode = .run → s.RunsInOrder) := by
  constructor
  · rintro ⟨hordered, hfits, hdb, hlatch, hdone, hrun⟩
    refine ⟨hordered, hfits, hdb, hlatch, hdone, fun hmode => ?_⟩
    obtain ⟨hin, hal, hbuffer, hretain⟩ := hrun hmode
    exact ⟨pcPast_iff.mpr ⟨hordered, hal, hbuffer⟩, hin, hretain⟩
  · rintro ⟨hordered, hfits, hdb, hlatch, hdone, hrun⟩
    refine ⟨hordered, hfits, hdb, hlatch, hdone, fun hmode => ?_⟩
    obtain ⟨hpast, hin, hretain⟩ := hrun hmode
    obtain ⟨-, hal, hbuffer⟩ := pcPast_iff.mp hpast
    exact ⟨hin, hal, hbuffer, hretain⟩

theorem State.RunsInOrder.commit (h : s.RunsInOrder) (hfault : (commit s).2 = false) : (commit s).1.RunsInOrder := by
  obtain ⟨hdb, -, -, -, -, hprog, hparams⟩ := commit_frame s
  obtain ⟨hpc, -⟩ := commit_of_noFault s hfault
  obtain ⟨gone, hgone⟩ := commit_al_suffix s
  have hsuffix : (Machine.commit s).1.orderedPCs ++ [(Machine.commit s).1.pc] <:+ s.orderedPCs ++ [s.pc] := by
    rw [State.orderedPCs, State.orderedPCs, hdb, hpc, ← hgone, List.map_append]
    exact ⟨gone.map ALEntry.pc, by simp only [List.append_assoc]⟩
  refine ⟨h.past.sublist hsuffix.sublist, ?_, fun hretain => (h.consecutive (hparams ▸ hretain)).suffix hsuffix⟩
  rw [hpc, State.progLen, hprog]
  exact h.inProgram

theorem State.RunsInOrder.laterStages (h : s.RunsInOrder) {u : State} (hu : laterStages s = .next u) : u.RunsInOrder := by
  obtain ⟨l, k, hsub, hretain, hordered, hpc, hin⟩ := laterStages_orderedPCs hu
  obtain ⟨-, -, -, hprog, hparams, -⟩ := laterStages_frame hu
  have hindices : u.orderedPCs ++ [u.pc] = l ++ List.range' s.pc (k + 1) := by
    rw [hordered, hpc, List.range'_1_concat, List.append_assoc]
  refine ⟨?past, ?inProgram, fun hmode => ?consecutive⟩
  case past =>
    obtain ⟨hpairwise, -, hpast⟩ := List.pairwise_append.mp h.past
    rw [State.PCPast, hindices]
    refine List.pairwise_append.mpr ⟨hpairwise.sublist hsub, List.pairwise_lt_range', fun x hx y hy => ?_⟩
    exact (hpast x (hsub.subset hx) s.pc (List.mem_singleton_self _)).trans_le (List.mem_range'_1.mp hy).1
  case inProgram =>
    rw [State.progLen, hprog]
    by_cases hk : k = 0
    · rw [hpc, hk]
      exact h.inProgram
    · exact hin hk
  case consecutive =>
    rw [hparams] at hmode
    rw [hindices, List.range'_succ, List.isChain_split, hretain hmode]
    exact ⟨h.consecutive hmode, List.isChain_range' s.pc (k + 1) 1⟩

/-! ### The flags and the bounds -/

/-- R202: a mark that sets the fault flag sets `Done`. -/
theorem markDone_faultDone {pc : Nat} {f : Bool} {al al' : List ALEntry} (h : markDone pc f al = some al')
    (hdone : ∀ a ∈ al, a.exc = true → a.done = true) : ∀ a ∈ al', a.exc = true → a.done = true := by
  obtain ⟨pre, a, post, rfl, -, -, rfl⟩ := markDone_eq_some pc f al al' h
  obtain ⟨hpre, hrest⟩ := List.forall_mem_append.mp hdone
  exact List.forall_mem_append.mpr ⟨hpre, List.forall_mem_cons.mpr ⟨fun _ => rfl, (List.forall_mem_cons.mp hrest).2⟩⟩

theorem executeLoop_faultDone (latch : List IQEntry) {s t : State} (h : executeLoop latch s = .next t)
    (hdone : ∀ a ∈ s.al, a.exc = true → a.done = true) : ∀ a ∈ t.al, a.exc = true → a.done = true := by
  induction latch generalizing s with
  | nil =>
    cases h
    exact hdone
  | cons e rest ih =>
    obtain ⟨u, hu, hrest⟩ := (andThen_eq_next_iff _ _ _).mp h
    rcases executeOne_cases e s with ⟨-, hmiss⟩ | ⟨al, hmark, hnext⟩
    · cases hmiss.symm.trans hu
    · obtain rfl := Host.Outcome.next.inj (hnext.symm.trans hu)
      refine ih hrest ?_
      rw [writeback_eq]
      exact markDone_faultDone hmark hdone

theorem laterStages_faultDone {u : State} (hu : laterStages s = .next u) (hdone : ∀ a ∈ s.al, a.exc = true → a.done = true) :
    ∀ a ∈ u.al, a.exc = true → a.done = true := by
  obtain ⟨e, d, he, hd, hfetch⟩ := laterStages_eq_next s u hu
  obtain ⟨x, hx, hex⟩ := (andThen_eq_next_iff _ _ _).mp he
  obtain ⟨d', newAl, -, hnext, -, hal, -, -, -, -, -, -, hfresh, -⟩ := dispatchTakesAPrefixOfTheBatch (issue e)
  obtain rfl : d' = d := Host.Outcome.next.inj (hnext.symm.trans hd)
  obtain ⟨db, pc, rfl⟩ := fetchDecode_frame d' u hfetch
  cases hex
  have hmarked := executeLoop_faultDone s.execLatch hx hdone
  change ∀ a ∈ d'.al, _
  rw [hal]
  refine List.forall_mem_append.mpr ⟨hmarked, fun a ha hexc => ?_⟩
  rw [(hfresh a ha).2] at hexc
  cases hexc

/-- R43, R44, R141, R181: the buffer and the latch hold four at most. -/
theorem laterStages_lengths {u : State} (hu : laterStages s = .next u) (hdb : s.db.length ≤ 4) : u.db.length ≤ 4 ∧ u.execLatch.length ≤ 4 := by
  obtain ⟨e, d, he, hd, hfetch⟩ := laterStages_eq_next s u hu
  obtain ⟨al, prf, busy, iq, hframe⟩ := execute_frame s e he
  obtain ⟨-, -, hlatch, -⟩ := dispatchLoop_frame _ _ _ d hd
  obtain ⟨-, -, hbuffer⟩ := dispatch_orderedPCs hd
  have hsame : (issue e).db = s.db := by rw [hframe]; rfl
  have hissued := issue_execLatch_length_le e
  rw [hsame] at hbuffer
  rcases fetchDecode_eq_next hfetch with ⟨-, rfl⟩ | ⟨-, batch, rfl, -, hwidth, -⟩
  · exact ⟨hbuffer.trans hdb, hlatch ▸ hissued⟩
  · exact ⟨hwidth, hlatch ▸ hissued⟩

end

/-! ### The step -/

section
variable {s t : State}

theorem commit_pipelineOrdered (h : s.pipelineOrdered) : (commit s).1.orderedPCs.Pairwise (· < ·) ∧ programFits (commit s).1.prog ∧
    (commit s).1.db.length ≤ 4 ∧ (commit s).1.execLatch.length ≤ 4 ∧ ∀ a ∈ (commit s).1.al, a.exc = true → a.done = true := by
  obtain ⟨hdb, -, -, hlatch, -, hprog, -⟩ := commit_frame s
  obtain ⟨hordered, hfits, hbuffer, hissued, hdone, -⟩ := h
  rw [hdb, hlatch, hprog]
  exact ⟨hordered.sublist (commit_orderedPCs_sublist s), hfits, hbuffer, hissued, fun a ha => hdone a ((commit_al_suffix s).subset ha)⟩

/-- After a fault `PC` is the vector, past every program, so nothing is fetched behind what is in flight (R72, R253). -/
theorem laterStages_pairwise_of_fault {u : State} (hu : laterStages s = .next u) (hordered : s.orderedPCs.Pairwise (· < ·)) (hfits : programFits s.prog)
    (hpc : s.pc = 65536) : u.orderedPCs.Pairwise (· < ·) := by
  obtain ⟨l, k, hsub, -, hindices, hend, hin⟩ := laterStages_orderedPCs hu
  have hlength : s.progLen ≤ 65536 := hfits
  have hk : k = 0 := by
    by_contra hk
    have := hin hk
    omega
  rw [hindices, hk, List.range'_zero, List.append_nil]
  exact hordered.sublist hsub

theorem runCycle_pipelineOrdered (h : s.pipelineOrdered) (hrun : s.mode = .run) (hc : runCycle s = .next t) : t.pipelineOrdered := by
  obtain ⟨hordered, hfits, hdb, hlatch, hdone⟩ := commit_pipelineOrdered h
  obtain ⟨-, -, -, -, -, hin⟩ := pipelineOrdered_iff.mp h
  rw [pipelineOrdered_iff]
  obtain ⟨u, rfl, ⟨hfault, rfl⟩ | hlater⟩ := runCycle_cases s t hc
  · rw [hfault]
    exact ⟨hordered, hfits, hdb, hlatch, hdone, nofun⟩
  · obtain ⟨-, -, -, hprog, -⟩ := laterStages_frame hlater
    obtain ⟨hdb', hlatch'⟩ := laterStages_lengths hlater hdb
    have hdone' := laterStages_faultDone hlater hdone
    have hfits' : programFits u.prog := hprog.symm ▸ hfits
    cases hf : (commit s).2 with
    | true =>
      obtain ⟨-, hpc, -⟩ := commit_of_fault s hf
      have hordered' := laterStages_pairwise_of_fault hlater hordered hfits hpc
      exact ⟨hordered', hfits', hdb', hlatch', hdone', nofun⟩
    | false =>
      have hkept := ((hin hrun).commit hf).laterStages hlater
      exact ⟨(pcPast_iff.mp hkept.past).1, hfits', hdb', hlatch', hdone', fun _ => ⟨hkept.past, hkept.inProgram, hkept.consecutive⟩⟩

/-- R281: a RECOVER step takes from the back of the Active List. -/
theorem recoverStep_pipelineOrdered (h : s.pipelineOrdered) (hmode : s.mode = .recover) : (recoverStep s).pipelineOrdered := by
  obtain ⟨-, hdb, -, hlatch, -, -, hprog, -⟩ := recoverStep_frame s
  obtain ⟨hordered, hfits, hbuffer, hissued, hdone, -⟩ := h
  have hkept : (recoverStep s).al.Sublist s.al := by
    rw [recoverStep_al]
    exact List.take_sublist _ _
  refine ⟨?_, hprog ▸ hfits, hdb ▸ hbuffer, hlatch ▸ hissued, fun a ha => hdone a (hkept.subset ha), fun hrun => ?_⟩
  · refine hordered.sublist ?_
    rw [State.orderedPCs, State.orderedPCs, hdb]
    exact (hkept.map _).append_right _
  · rw [recoverStep_mode, hmode] at hrun
    split_ifs at hrun

end

/-- Settles O54: a RUN cycle and a RECOVER step keep the order; the other steps leave what it is about, and leave RUN. -/
theorem everyStepKeepsProgramOrder : Obligations.EveryStepKeepsProgramOrder := by
  unfold Obligations.EveryStepKeepsProgramOrder
  intro s t h hstep
  have hleft : ∀ u : State, u.orderedPCs = s.orderedPCs → u.prog = s.prog → u.db = s.db → u.execLatch = s.execLatch → u.al = s.al → u.mode ≠ .run →
      u.pipelineOrdered := by
    intro u hpcs hprog hdb hlatch hal hmode
    obtain ⟨hordered, hfits, hbuffer, hissued, hdone, -⟩ := h
    exact ⟨hpcs ▸ hordered, hprog ▸ hfits, hdb ▸ hbuffer, hlatch ▸ hissued, hal ▸ hdone, fun hrun => absurd hrun hmode⟩
  rcases step_eq_next s t hstep with ⟨-, -, rfl⟩ | ⟨hm, -, hc⟩ | ⟨hm, rfl⟩ | ⟨-, rfl⟩ | ⟨-, rfl⟩
  · exact hleft _ rfl rfl rfl rfl rfl (by simp)
  · exact runCycle_pipelineOrdered h hm hc
  · exact recoverStep_pipelineOrdered h hm
  · exact hleft _ rfl rfl rfl rfl rfl (by simp [recoverFinalStep_eq])
  · exact hleft _ rfl rfl rfl rfl rfl (by simp [recoverClearStep_eq])

/-- Settles O33: what executes is what the latch holds; Issue has room for four, Dispatch takes no more than the buffer holds, and a fetch reads four at most. -/
theorem noCycleMovesMoreThanFour : Obligations.NoCycleMovesMoreThanFour := by
  unfold Obligations.NoCycleMovesMoreThanFour
  intro s e d u hrun hordered he hd hu
  obtain ⟨-, -, hdb, hlatch, -⟩ := hordered
  obtain ⟨hsame, -⟩ := issue_after_commit_frame s e he
  have hselected : (issue e).execLatch = (e.iq.filter IQEntry.ready).take 4 := (selectReady_splits_ready Config.width e.iq).1
  obtain ⟨d', newAl, newIq, hnext, -, hal, hiq, halPCs, hiqPCs, -⟩ := dispatchTakesAPrefixOfTheBatch (issue e)
  obtain rfl : d' = d := Host.Outcome.next.inj (hnext.symm.trans hd)
  have hbatch : ((issue e).db.take (min (issue e).db.length (issue e).fl.length)).length ≤ 4 := (List.length_take_le' _ _).trans (hsame ▸ hdb)
  have hnewAl := congrArg List.length halPCs
  have hnewIq := congrArg List.length hiqPCs
  rw [List.length_map, List.length_map] at hnewAl hnewIq
  obtain ⟨-, -, hbuffer⟩ := dispatch_orderedPCs hd
  rw [hsame] at hbuffer
  obtain ⟨k, hk, hpc, -⟩ := fetchDecode_pc d' u hu
  refine ⟨hlatch, issue_execLatch_length_le e, fun x hx => ?ready, ?dispatchedAl, ?dispatchedIq, by omega, ?fetched⟩
  case ready =>
    rw [hselected] at hx
    have hready := (List.mem_filter.mp (List.mem_of_mem_take hx)).2
    simpa [IQEntry.ready] using hready
  case dispatchedAl =>
    have hissue : (issue e).al = e.al := rfl
    rw [hal, List.length_append, hissue]
    omega
  case dispatchedIq =>
    rw [hiq, List.length_append]
    omega
  case fetched =>
    rcases fetchDecode_eq_next hu with ⟨-, rfl⟩ | ⟨-, batch, rfl, -, hwidth, -⟩
    · exact hbuffer.trans hdb
    · exact hwidth

end Sys2Proof.Machine

/-! The renaming books (`70_reset_and_hazards.md` rules R321, R322, R326): on top of what keeps a run moving, every instruction in flight has its own
destination, a register is busy exactly while its instruction has not executed without fault, and a waiting operand's producer is still to come. -/

namespace Sys2Proof.Machine

/-! ### Destinations -/

theorem destinations_length (al : List ALEntry) (rat : Vector PReg Config.nlog) : (destinations al rat).length = al.length := by
  induction al with
  | nil => rfl
  | cons a rest ih => rw [destinations_cons, List.length_cons, ih, List.length_cons]

/-- What is younger decides a destination, so entries that leave the front take theirs with them (R164). -/
theorem destinations_append (gone kept : List ALEntry) (rat : Vector PReg Config.nlog) :
    ∃ ps, destinations (gone ++ kept) rat = ps ++ destinations kept rat ∧ ps.length = gone.length := by
  induction gone with
  | nil => exact ⟨[], rfl, rfl⟩
  | cons a rest ih =>
    obtain ⟨ps, hps, hlength⟩ := ih
    exact ⟨_ :: ps, by rw [List.cons_append, destinations_cons, hps, List.cons_append], by rw [List.length_cons, hlength, List.length_cons]⟩

/-- A mark changes no destination (R202). -/
theorem destinations_map_marked (pc : Nat) (f : Bool) (al : List ALEntry) (rat : Vector PReg Config.nlog) :
    destinations (al.map (ALEntry.marked pc f)) rat = destinations al rat := by
  have hlog : ∀ a : ALEntry, (a.marked pc f).logDest = a.logDest := fun a => by unfold ALEntry.marked; split <;> rfl
  have hold : ∀ a : ALEntry, (a.marked pc f).oldDest = a.oldDest := fun a => by unfold ALEntry.marked; split <;> rfl
  induction al with
  | nil => rfl
  | cons a rest ih =>
    rw [List.map_cons, destinations_cons, ih, destinations_cons, List.find?_map]
    simp only [Function.comp_def, hlog]
    cases rest.find? fun b => b.logDest = a.logDest with
    | none => rfl
    | some b => exact congrArg (· :: _) (hold b)

/-- The RAT and the old destinations are the destinations and the map below them all (R285, R321). -/
theorem destinations_perm (al : List ALEntry) (rat : Vector PReg Config.nlog) :
    ∃ restored, (rat.toList ++ al.map ALEntry.oldDest).Perm (restored ++ destinations al rat) := by
  induction al using List.reverseRecOn generalizing rat with
  | nil => exact ⟨rat.toList, by simp [destinations]⟩
  | append_singleton older a ih =>
    obtain ⟨restored, hperm⟩ := ih (rat.set a.logDest.val a.oldDest)
    refine ⟨restored, List.perm_iff_count.mpr fun x => ?_⟩
    have hundone := hperm.count_eq x
    have hwritten := (rat_set_perm rat a.logDest a.oldDest).count_eq x
    rw [destinations_concat]
    simp only [List.map_append, List.map_cons, List.map_nil, List.count_append, List.count_cons, List.count_nil] at hundone hwritten ⊢
    omega

section
variable {s t : State}

/-- R321: no register is free and a destination, and none is the destination of two instructions. -/
theorem destinations_of_partition (hpart : s.registersPartition) : (destinations s.al s.rat).Nodup ∧ ∀ p ∈ s.fl, p ∉ destinations s.al s.rat := by
  obtain ⟨restored, hperm⟩ := destinations_perm s.al s.rat
  have hall : (s.fl ++ (restored ++ destinations s.al s.rat)).Nodup := by
    rw [← (hperm.append_left s.fl).nodup_iff, ← List.append_assoc]
    exact hpart.nodup_iff.mpr (List.nodup_finRange _)
  obtain ⟨-, hrest, hdisjoint⟩ := List.nodup_append.mp hall
  exact ⟨hrest.sublist (List.sublist_append_right _ _), fun p hp hdest => hdisjoint p hp p (List.mem_append_right _ hdest) rfl⟩

theorem alDestinations_map_fst (s : State) : s.alDestinations.map Prod.fst = s.al :=
  List.map_fst_zip (destinations_length s.al s.rat).ge

theorem alDestinations_map_snd (s : State) : s.alDestinations.map Prod.snd = destinations s.al s.rat :=
  List.map_snd_zip (destinations_length s.al s.rat).le

theorem mem_al_of_mem_alDestinations {x : ALEntry × PReg} (hx : x ∈ s.alDestinations) : x.1 ∈ s.al := (List.of_mem_zip hx).1

theorem exists_destination {a : ALEntry} (ha : a ∈ s.al) : ∃ p, (a, p) ∈ s.alDestinations := by
  rw [← alDestinations_map_fst s] at ha
  obtain ⟨⟨b, p⟩, hx, rfl⟩ := List.mem_map.mp ha
  exact ⟨p, hx⟩

/-- The PC tells the Active List entries apart (R323). -/
theorem alDestinations_eq_of_pc (hdistinct : (s.al.map ALEntry.pc).Nodup) {x y : ALEntry × PReg} (hx : x ∈ s.alDestinations) (hy : y ∈ s.alDestinations)
    (hpc : x.1.pc = y.1.pc) : x = y := by
  rw [← alDestinations_map_fst s, List.map_map] at hdistinct
  exact List.inj_on_of_nodup_map hdistinct hx hy hpc

/-- The destination tells the Active List entries apart (R321). -/
theorem alDestinations_eq_of_destination (hpart : s.registersPartition) {x y : ALEntry × PReg} (hx : x ∈ s.alDestinations) (hy : y ∈ s.alDestinations)
    (hdest : x.2 = y.2) : x = y := by
  have hdistinct := (destinations_of_partition hpart).1
  rw [← alDestinations_map_snd s] at hdistinct
  exact List.inj_on_of_nodup_map hdistinct hx hy hdest

/-! ### Unexecuted producers -/

/-- Register `p` is the destination of the instruction with PC `pc`, which has not executed without fault (R203, R322). -/
def State.Unexecuted (s : State) (p : PReg) (pc : Nat) : Prop :=
  ∃ x ∈ s.alDestinations, x.2 = p ∧ x.1.pc = pc ∧ (x.1.done = false ∨ x.1.exc = true)

theorem busyExact_iff (p : PReg) :
    (s.isBusy p = true ↔ ∃ x ∈ s.alDestinations, x.2 = p ∧ (x.1.done = false ∨ x.1.exc = true)) ↔
      (s.isBusy p = true ↔ ∃ pc, s.Unexecuted p pc) := by
  refine iff_congr Iff.rfl ⟨?_, ?_⟩
  · rintro ⟨x, hx, hp, hflags⟩
    exact ⟨x.1.pc, x, hx, hp, rfl, hflags⟩
  · rintro ⟨pc, x, hx, hp, -, hflags⟩
    exact ⟨x, hx, hp, hflags⟩

theorem operandSound_iff {pc : Nat} {o : Operand} :
    s.operandSound pc o ↔ (o.ready = false → ∃ pc' < pc, s.Unexecuted o.tag pc') ∧ (o.ready = true → o.tag = 0) := by
  refine and_congr (imp_congr Iff.rfl ⟨?_, ?_⟩) Iff.rfl
  · rintro ⟨x, hx, hp, hpc, hflags⟩
    exact ⟨x.1.pc, hpc, x, hx, hp, rfl, hflags⟩
  · rintro ⟨pc', hpc, x, hx, hp, rfl, hflags⟩
    exact ⟨x, hx, hp, hpc, hflags⟩

/-- More producers still to come, no operand less sound. -/
theorem operandSound_mono (h : ∀ p pc, s.Unexecuted p pc → t.Unexecuted p pc) {pc : Nat} {o : Operand} (ho : s.operandSound pc o) : t.operandSound pc o := by
  rw [operandSound_iff] at ho ⊢
  obtain ⟨hwaits, hready⟩ := ho
  refine ⟨fun hr => ?_, hready⟩
  obtain ⟨pc', hpc, hp⟩ := hwaits hr
  exact ⟨pc', hpc, h _ _ hp⟩

/-! ### The books -/

/-- The books of a state with `issued` out of the queue and not executed: what keeps the run moving; the partition; the queue in program order; every entry
that waits or is issued has its instruction's destination; the Busy bits and the waiting operands agree with what is unexecuted (R321, R322, R326). -/
structure Accounted (s : State) (issued : List IQEntry) : Prop extends InFlight s issued where
  partition : s.registersPartition
  queueOrder : (s.iq.map IQEntry.pc).Pairwise (· < ·)
  agree : ∀ e ∈ s.iq ++ issued, ∃ x ∈ s.alDestinations, x.1.pc = e.pc ∧ x.2 = e.destReg
  busyExact : ∀ p, s.isBusy p = true ↔ ∃ pc, s.Unexecuted p pc
  waiters : ∀ q ∈ s.iq, s.operandSound q.pc q.operandA ∧ s.operandSound q.pc q.operandB

variable {issued : List IQEntry}

/-- What the books are about: the RAT, the Busy bits, the Free List, the Active List and the queue. -/
theorem Accounted.congr (h : Accounted s issued) (hrat : t.rat = s.rat) (hal : t.al = s.al) (hiq : t.iq = s.iq) (hbusy : t.busy = s.busy)
    (hfl : t.fl = s.fl) : Accounted t issued := by
  have hdest : t.alDestinations = s.alDestinations := by rw [State.alDestinations, State.alDestinations, hal, hrat]
  have hunexecuted : t.Unexecuted = s.Unexecuted := by
    funext p pc
    rw [State.Unexecuted, State.Unexecuted, hdest]
  refine { toInFlight := h.toInFlight.congr hal hiq hbusy hfl, partition := ?_, queueOrder := hiq ▸ h.queueOrder, agree := ?_, busyExact := fun p => ?_,
           waiters := ?_ }
  · exact registersPartition_of_perm h.partition (by rw [registers_congr hfl hrat (by rw [hal])])
  · rw [hdest, hiq]
    exact h.agree
  · rw [hunexecuted, isBusy_congr s t hbusy]
    exact h.busyExact p
  · rw [hiq]
    exact fun q hq => ⟨operandSound_mono (fun _ _ hp => hunexecuted ▸ hp) (h.waiters q hq).1,
      operandSound_mono (fun _ _ hp => hunexecuted ▸ hp) (h.waiters q hq).2⟩

/-- The entry that waits or is issued, its Active List entry and its destination (R164, R165, R322). -/
theorem Accounted.entry (h : Accounted s issued) {e : IQEntry} (he : e ∈ s.iq ++ issued) :
    ∃ a, (a, e.destReg) ∈ s.alDestinations ∧ a.pc = e.pc ∧ a.done = false := by
  obtain ⟨a, ha, hwaits, hpc⟩ := h.alEntry he
  obtain ⟨p, hp⟩ := exists_destination ha
  obtain ⟨x, hx, hxpc, hdest⟩ := h.agree e he
  have hsame := alDestinations_eq_of_pc h.nodup hp hx (hpc.trans hxpc.symm)
  subst hsame
  cases hdest
  exact ⟨a, hp, hpc, hwaits⟩

/-- No free register is a destination in flight. -/
theorem Accounted.destReg_not_mem_fl (h : Accounted s issued) {e : IQEntry} (he : e ∈ s.iq ++ issued) : e.destReg ∉ s.fl := by
  obtain ⟨x, hx, -, hdest⟩ := h.agree e he
  exact fun hfree => (destinations_of_partition h.partition).2 _ hfree (hdest ▸ (List.of_mem_zip hx).2)

/-! ### Commit -/

/-- What retires leaves the front, `Done` and without a fault (R251). -/
theorem commit_alDestinations (s : State) :
    ∃ gone, s.alDestinations = gone ++ (commit s).1.alDestinations ∧ ∀ x ∈ gone, x.1.done = true ∧ x.1.exc = false := by
  obtain ⟨pre, post, hal, hpre, hc⟩ := commit_cases s
  have hkept : (commit s).1.al = post := by rcases hc with hc | ⟨h, rest, -, -, hc⟩ <;> simp [hc, takeFault_eq]
  obtain ⟨-, hrat, -⟩ := commit_frame s
  obtain ⟨ps, hps, hlength⟩ := destinations_append pre post s.rat
  refine ⟨pre.zip ps, ?_, fun x hx => hpre x.1 (List.of_mem_zip hx).1⟩
  rw [State.alDestinations, State.alDestinations, hkept, hrat, hal, hps, List.zip_append hlength.symm]

theorem commit_unexecuted_iff {p : PReg} {pc : Nat} : (commit s).1.Unexecuted p pc ↔ s.Unexecuted p pc := by
  obtain ⟨gone, hsplit, hgone⟩ := commit_alDestinations s
  rw [State.Unexecuted, State.Unexecuted, hsplit]
  constructor
  · rintro ⟨x, hx, hx'⟩
    exact ⟨x, List.mem_append_right _ hx, hx'⟩
  · rintro ⟨x, hx, hp, hpc, hflags⟩
    refine ⟨x, (List.mem_append.mp hx).resolve_left fun hin => ?_, hp, hpc, hflags⟩
    obtain ⟨hdone, hexc⟩ := hgone x hin
    simp [hdone, hexc] at hflags

theorem commit_iq_busy (s : State) : (commit s).1.iq = s.iq ∧ (commit s).1.busy = s.busy := by
  rw [commitBlockIsTheStage]
  exact ⟨rfl, rfl⟩

/-- Commit keeps the books: what retires is neither unexecuted nor waited for (R251, R322). -/
theorem Accounted.commit (h : Accounted s issued) : Accounted (commit s).1 issued := by
  obtain ⟨hiq, hbusy⟩ := commit_iq_busy s
  refine { toInFlight := h.toInFlight.commit, partition := registersPartition_of_perm h.partition (commit_registers_perm s), queueOrder := hiq ▸ h.queueOrder,
           agree := ?agree, busyExact := fun p => ?busyExact, waiters := ?waiters }
  case agree =>
    rw [hiq]
    intro e he
    obtain ⟨a, ha, hpc, hwaits⟩ := h.entry he
    obtain ⟨gone, hsplit, hgone⟩ := commit_alDestinations s
    rw [hsplit] at ha
    refine ⟨(a, e.destReg), (List.mem_append.mp ha).resolve_left fun hin => ?_, hpc, rfl⟩
    cases (hgone _ hin).1.symm.trans hwaits
  case busyExact =>
    rw [isBusy_congr s _ hbusy, h.busyExact p]
    exact exists_congr fun _ => commit_unexecuted_iff.symm
  case waiters =>
    rw [hiq]
    intro q hq
    obtain ⟨hA, hB⟩ := h.waiters q hq
    exact ⟨operandSound_mono (fun _ _ => commit_unexecuted_iff.mpr) hA, operandSound_mono (fun _ _ => commit_unexecuted_iff.mpr) hB⟩

/-! ### Execute -/

theorem driveBus_iq (s : State) (e : IQEntry) (w : Nat) : (s.driveBus (e.bus w)).iq = s.iq.map ((e.result w).broadcast e.destReg) := by
  cases hf : (e.result w).fault with
  | true =>
    have hnone : (e.result w).broadcast e.destReg = id := funext fun q => by simp [AluResult.broadcast, hf]
    simp [State.driveBus, IQEntry.bus, hf, hnone]
  | false =>
    have hall : (e.result w).broadcast e.destReg = wakeEntry e.destReg (e.result w).value := funext fun q => by simp [AluResult.broadcast, hf]
    simp [State.driveBus, IQEntry.bus, hf, hall]

theorem isBusy_driveBus (s : State) (e : IQEntry) (w : Nat) (p : PReg) :
    (s.driveBus (e.bus w)).isBusy p = if p = e.destReg ∧ (e.result w).fault = false then false else s.isBusy p := by
  rw [← isBusy_writeback]
  exact isBusy_congr _ _ (by cases hf : (e.result w).fault <;> simp [State.driveBus, IQEntry.bus, State.writeback, hf]) p

theorem driveBus_alDestinations (s : State) (e : IQEntry) (w : Nat) :
    (s.driveBus (e.bus w)).alDestinations = s.alDestinations.map (Prod.map (ALEntry.marked e.pc (e.result w).fault) id) := by
  have hrat : (s.driveBus (e.bus w)).rat = s.rat := rfl
  rw [State.alDestinations, driveBus_al, hrat, destinations_map_marked, List.zip_map_left]
  rfl

end

section
variable {s : State} {e : IQEntry} {rest : List IQEntry}

/-- The executed entry's register stays unexecuted exactly when it faults; no other register's producer is touched (R202, R203). -/
theorem Accounted.driveBus_unexecuted_iff (h : Accounted s (e :: rest)) (w : Nat) {p : PReg} {pc : Nat} :
    (s.driveBus (e.bus w)).Unexecuted p pc ↔ s.Unexecuted p pc ∧ ((e.result w).fault = true ∨ p ≠ e.destReg) := by
  obtain ⟨a, ha, hapc, hwaits⟩ := h.entry (List.mem_append_right _ (List.mem_cons_self (a := e) (l := rest)))
  rw [State.Unexecuted, driveBus_alDestinations]
  constructor
  · rintro ⟨y, hy, hp, hpc, hflags⟩
    obtain ⟨x, hx, rfl⟩ := List.mem_map.mp hy
    by_cases hown : x.1.pc = e.pc
    · obtain rfl := alDestinations_eq_of_pc h.nodup hx ha (hown.trans hapc.symm)
      have hfault : (e.result w).fault = true := by simpa [ALEntry.marked, hapc] using hflags
      exact ⟨⟨_, ha, hp, by simpa using hpc, .inl hwaits⟩, .inl hfault⟩
    · have hsame : x.1.marked e.pc (e.result w).fault = x.1 := marked_of_ne _ hown
      rw [Prod.map_fst, hsame] at hpc hflags
      refine ⟨⟨x, hx, hp, hpc, hflags⟩, .inr fun hdest => hown ?_⟩
      obtain rfl := alDestinations_eq_of_destination h.partition hx ha (hp.trans hdest)
      exact hapc
  · rintro ⟨⟨x, hx, hp, hpc, hflags⟩, hother⟩
    refine ⟨_, List.mem_map_of_mem hx, hp, by simpa using hpc, ?_⟩
    by_cases hown : x.1.pc = e.pc
    · obtain rfl := alDestinations_eq_of_pc h.nodup hx ha (hown.trans hapc.symm)
      have hfault := hother.resolve_right fun hne => hne hp.symm
      simp [ALEntry.marked, hapc, hfault]
    · rw [Prod.map_fst, marked_of_ne _ hown]
      exact hflags

/-- An operand behind a broadcast is woken, or waits for a producer still to come (R205, R326). -/
theorem Accounted.operandSound_forwardTo (h : Accounted s (e :: rest)) (w : Nat) {pc : Nat} {o : Operand} (ho : s.operandSound pc o) :
    (s.driveBus (e.bus w)).operandSound pc ((e.result w).forwardTo e.destReg o) := by
  rw [operandSound_iff] at ho ⊢
  obtain ⟨hwaits, hready⟩ := ho
  rw [forwardTo_eq]
  split_ifs with hwoken
  · exact ⟨nofun, fun _ => rfl⟩
  · refine ⟨fun hr => ?_, hready⟩
    obtain ⟨pc', hpc, hp⟩ := hwaits hr
    refine ⟨pc', hpc, (h.driveBus_unexecuted_iff w).mpr ⟨hp, ?_⟩⟩
    by_contra hneither
    rw [not_or, Bool.not_eq_true, not_not] at hneither
    exact hwoken ⟨hneither.1, hr, hneither.2⟩

/-- The oldest issued entry executed keeps the books (R202 to R205). -/
theorem Accounted.driveBus (h : Accounted s (e :: rest)) (w : Nat) : Accounted (s.driveBus (e.bus w)) rest := by
  have hiq := driveBus_iq s e w
  refine { toInFlight := h.toInFlight.driveBus w, partition := ?partition, queueOrder := ?queueOrder, agree := ?agree, busyExact := fun p => ?busyExact,
           waiters := ?waiters }
  case partition =>
    have hold : (s.driveBus (e.bus w)).al.map ALEntry.oldDest = s.al.map ALEntry.oldDest := by
      rw [driveBus_al, List.map_map]
      refine List.map_congr_left fun a _ => ?_
      simp only [Function.comp_apply, ALEntry.marked]
      split <;> rfl
    have hsame : (s.driveBus (e.bus w)).registers = s.registers := registers_congr rfl rfl hold
    exact registersPartition_of_perm h.partition (hsame ▸ List.Perm.refl _)
  case queueOrder =>
    have hpcs : (s.driveBus (e.bus w)).iq.map IQEntry.pc = s.iq.map IQEntry.pc := by simp [hiq, Function.comp_def, broadcast_pc]
    rw [hpcs]
    exact h.queueOrder
  case agree =>
    have hkept : ∀ x ∈ s.iq ++ (e :: rest), ∃ y ∈ (s.driveBus (e.bus w)).alDestinations, y.1.pc = x.pc ∧ y.2 = x.destReg := by
      intro x hx
      obtain ⟨y, hy, hpc, hdest⟩ := h.agree x hx
      rw [driveBus_alDestinations]
      exact ⟨_, List.mem_map_of_mem hy, by simpa using hpc, hdest⟩
    rw [hiq]
    refine List.forall_mem_append.mpr ⟨List.forall_mem_map.mpr fun q hq => ?_, fun x hx => hkept x (List.mem_append_right _ (List.mem_cons_of_mem _ hx))⟩
    rw [broadcast_pc, broadcast_destReg]
    exact hkept q (List.mem_append_left _ hq)
  case busyExact =>
    simp only [h.driveBus_unexecuted_iff w, exists_and_right, ← h.busyExact p, isBusy_driveBus]
    cases (e.result w).fault <;> simp [and_comm]
  case waiters =>
    rw [hiq]
    refine List.forall_mem_map.mpr fun q hq => ?_
    obtain ⟨hA, hB⟩ := h.waiters q hq
    rw [broadcast_operandA, broadcast_operandB, broadcast_pc]
    exact ⟨h.operandSound_forwardTo w hA, h.operandSound_forwardTo w hB⟩

end

/-- The latch executed keeps the books, and nothing is issued any more (R200). -/
theorem Accounted.foldl_driveBus (w : Nat) (latch : List IQEntry) {s : State} (h : Accounted s latch) :
    Accounted ((executeBlock w latch).foldl State.driveBus s) [] := by
  induction latch generalizing s with
  | nil => exact h
  | cons e rest ih => exact ih (h.driveBus w)

theorem Accounted.executes {s t : State} (h : Accounted s s.execLatch) (ht : execute s = .next t) :
    t = ((executeBlock s.params.xlen s.execLatch).foldl State.driveBus s).withExecLatch [] := by
  have hlive : ∀ e ∈ s.execLatch, ∃ a ∈ s.al, a.pc = e.pc := fun e he => by
    obtain ⟨a, ha, -, hpc⟩ := h.alEntry (List.mem_append_right _ he)
    exact ⟨a, ha, hpc⟩
  exact Host.Outcome.next.inj (ht.symm.trans (executeBlockIsTheStage s h.nodup hlive))

theorem Accounted.execute {s t : State} (h : Accounted s s.execLatch) (ht : Machine.execute s = .next t) : Accounted t [] := by
  rw [h.executes ht]
  exact (h.foldl_driveBus s.params.xlen s.execLatch).congr rfl rfl rfl rfl rfl

/-! ### Issue -/

theorem selectReady_selected_sublist (n : Nat) (q : List IQEntry) : (selectReady n q).1.Sublist q := by
  rw [(selectReady_splits_ready n q).1]
  exact (List.take_sublist _ _).trans List.filter_sublist

theorem issue_execLatch_ready (s : State) : ∀ e ∈ (issue s).execLatch, e.ready = true := by
  intro e he
  rw [issue_eq, (selectReady_splits_ready Config.width s.iq).1] at he
  exact (List.mem_filter.mp (List.mem_of_mem_take he)).2

/-- Issue keeps the books (R186). -/
theorem Accounted.issue {s : State} (h : Accounted s []) : Accounted (issue s) (issue s).execLatch := by
  have hkept : ∀ q ∈ (Machine.issue s).iq, q ∈ s.iq := fun q hq => (selectReady_kept_sublist Config.width s.iq).subset hq
  have hparted : ∀ e ∈ (Machine.issue s).iq ++ (Machine.issue s).execLatch, e ∈ s.iq ++ [] := by
    rw [List.append_nil]
    exact List.forall_mem_append.mpr ⟨hkept, fun e he => (selectReady_selected_sublist Config.width s.iq).subset he⟩
  exact { toInFlight := h.toInFlight.issue, partition := h.partition, queueOrder := h.queueOrder.sublist ((selectReady_kept_sublist Config.width s.iq).map _),
          agree := fun e he => h.agree e (hparted e he), busyExact := h.busyExact, waiters := fun q hq => h.waiters q (hkept q hq) }

/-! ### Rename/Dispatch -/

section
variable {s : State} {issued : List IQEntry}

/-- A source captured at dispatch is ready, or waits for an instruction in flight (R161, R162). -/
theorem Accounted.registerOperand_sound (h : Accounted s issued) {pc : Nat} (hpast : ∀ a ∈ s.al, a.pc < pc) (r : LReg) :
    s.operandSound pc (registerOperand s r) := by
  rw [operandSound_iff]
  refine ⟨fun hwaits => ?_, fun hready => ?_⟩
  · have hbusy : s.isBusy (s.mapOf r) = true := by simpa [registerOperand, physicalOperand] using hwaits
    have htag : (registerOperand s r).tag = s.mapOf r := by simp [registerOperand, physicalOperand, hbusy]
    obtain ⟨pc', x, hx, hp, rfl, hflags⟩ := (h.busyExact _).mp hbusy
    exact ⟨x.1.pc, hpast _ (mem_al_of_mem_alDestinations hx), x, hx, hp.trans htag.symm, rfl, hflags⟩
  · have hidle : s.isBusy (s.mapOf r) = false := by simpa [registerOperand, physicalOperand] using hready
    simp [registerOperand, physicalOperand, hidle]

theorem Accounted.operandB_sound (h : Accounted s issued) {pc : Nat} (hpast : ∀ a ∈ s.al, a.pc < pc) (src : OperandB) :
    s.operandSound pc (operandB s src) := by
  cases src with
  | reg r => exact h.registerOperand_sound hpast r
  | imm v => exact ⟨nofun, fun _ => rfl⟩

/-- R164: the dispatched entry's destination is the register taken; the others keep theirs. -/
theorem dispatchEntry_alDestinations {e : DBEntry} {p : PReg} {free : List PReg} (hfl : s.fl = p :: free) :
    (s.dispatchEntry e).alDestinations = s.alDestinations ++ [(newALEntry (s.withDb [e]) e.instr.rd, p)] := by
  rw [dispatchEntry_of_fl_cons s e hfl]
  change (s.al ++ [newALEntry (s.withDb [e]) e.instr.rd]).zip (destinations (s.al ++ [newALEntry (s.withDb [e]) e.instr.rd]) (s.rat.set e.instr.rd.val p)) = _
  have hundone : (s.rat.set e.instr.rd.val p).set e.instr.rd.val s.rat[e.instr.rd.val] = s.rat := by simp
  have hnew : destinations (s.al ++ [newALEntry (s.withDb [e]) e.instr.rd]) (s.rat.set e.instr.rd.val p) = destinations s.al s.rat ++ [p] := by
    rw [destinations_concat]
    change destinations s.al ((s.rat.set e.instr.rd.val p).set e.instr.rd.val s.rat[e.instr.rd.val]) ++ [(s.rat.set e.instr.rd.val p)[e.instr.rd.val]] = _
    rw [hundone, Vector.getElem_set_self]
  rw [hnew, List.zip_append (destinations_length _ _).symm]
  rfl

theorem dispatchEntry_unexecuted_iff {e : DBEntry} {p p' : PReg} {free : List PReg} {pc : Nat} (hfl : s.fl = p :: free) :
    (s.dispatchEntry e).Unexecuted p' pc ↔ s.Unexecuted p' pc ∨ (p' = p ∧ pc = e.pc) := by
  rw [State.Unexecuted, State.Unexecuted, dispatchEntry_alDestinations hfl]
  constructor
  · rintro ⟨x, hx, hp, hpc, hflags⟩
    rcases List.mem_append.mp hx with hin | hnew
    · exact .inl ⟨x, hin, hp, hpc, hflags⟩
    · obtain rfl := List.mem_singleton.mp hnew
      exact .inr ⟨hp.symm, hpc.symm⟩
  · rintro (⟨x, hx, hx'⟩ | ⟨rfl, rfl⟩)
    · exact ⟨x, List.mem_append_left _ hx, hx'⟩
    · exact ⟨_, List.mem_append_right _ (List.mem_singleton_self _), rfl, rfl, .inl rfl⟩

/-- One entry dispatched keeps the books, when it is younger than the Active List (R164, R165). -/
theorem Accounted.dispatchEntry (h : Accounted s issued) {e : DBEntry} (hpast : ∀ a ∈ s.al, a.pc < e.pc) : Accounted (s.dispatchEntry e) issued := by
  cases hfl : s.fl with
  | nil =>
    rw [dispatchEntry_of_fl_nil s e hfl]
    exact h.congr rfl rfl rfl rfl rfl
  | cons p free =>
    have hiq : (s.dispatchEntry e).iq = s.iq ++ [newIQEntry (s.withDb [e]) e.instr.op e.instr.rs1 e.instr.srcB p] := by
      rw [dispatchEntry_of_fl_cons s e hfl]
      rfl
    have hmono : ∀ p' pc, s.Unexecuted p' pc → (s.dispatchEntry e).Unexecuted p' pc := fun _ _ hp => (dispatchEntry_unexecuted_iff hfl).mpr (.inl hp)
    refine { toInFlight := h.toInFlight.dispatchEntry hpast, partition := registersPartition_of_perm h.partition (dispatchEntry_registers_perm s e),
             queueOrder := ?queueOrder, agree := ?agree, busyExact := fun p' => ?busyExact, waiters := ?waiters }
    case queueOrder =>
      rw [hiq, List.map_append]
      refine List.pairwise_append.mpr ⟨h.queueOrder, List.pairwise_singleton _ _, fun pc hpc pc' hpc' => ?_⟩
      obtain ⟨q, hq, rfl⟩ := List.mem_map.mp hpc
      obtain ⟨a, ha, -, hqpc⟩ := h.alEntry (List.mem_append_left issued hq)
      obtain rfl : pc' = e.pc := List.mem_singleton.mp hpc'
      exact hqpc ▸ hpast a ha
    case agree =>
      have hkept : ∀ x ∈ s.iq ++ issued, ∃ y ∈ (s.dispatchEntry e).alDestinations, y.1.pc = x.pc ∧ y.2 = x.destReg := by
        intro x hx
        obtain ⟨y, hy, hy'⟩ := h.agree x hx
        exact ⟨y, by rw [dispatchEntry_alDestinations hfl]; exact List.mem_append_left _ hy, hy'⟩
      rw [hiq]
      refine List.forall_mem_append.mpr ⟨List.forall_mem_append.mpr ⟨fun x hx => hkept x (List.mem_append_left _ hx), ?_⟩,
        fun x hx => hkept x (List.mem_append_right _ hx)⟩
      rw [dispatchEntry_alDestinations hfl]
      exact List.forall_mem_singleton.mpr ⟨_, List.mem_append_right _ (List.mem_singleton_self _), rfl, rfl⟩
    case busyExact =>
      have hset : (s.dispatchEntry e).isBusy p' = if p' = p then true else s.isBusy p' := by
        rw [dispatchEntry_of_fl_cons s e hfl]
        exact allocate_isBusy e.instr.op e.instr.rd e.instr.rs1 e.instr.srcB p'
      simp only [hset, dispatchEntry_unexecuted_iff hfl, exists_or, exists_and_left, exists_eq, and_true, ← h.busyExact p']
      by_cases hnew : p' = p <;> simp [hnew]
    case waiters =>
      rw [hiq]
      refine List.forall_mem_append.mpr ⟨fun q hq => ?_, List.forall_mem_singleton.mpr ?_⟩
      · obtain ⟨hA, hB⟩ := h.waiters q hq
        exact ⟨operandSound_mono hmono hA, operandSound_mono hmono hB⟩
      · exact ⟨operandSound_mono hmono (h.registerOperand_sound hpast e.instr.rs1), operandSound_mono hmono (h.operandB_sound hpast e.instr.srcB)⟩

end

/-- The first of a batch in program order is younger than the Active List, and once it is dispatched the rest is behind it in order. -/
theorem ordered_dispatchEntry {s : State} {e : DBEntry} {rest : List DBEntry}
    (hordered : (s.al.map ALEntry.pc ++ (e :: rest).map DBEntry.pc).Pairwise (· < ·)) :
    (∀ a ∈ s.al, a.pc < e.pc) ∧ ((s.dispatchEntry e).al.map ALEntry.pc ++ rest.map DBEntry.pc).Pairwise (· < ·) := by
  obtain ⟨-, -, hacross⟩ := List.pairwise_append.mp hordered
  refine ⟨fun a ha => hacross a.pc (List.mem_map_of_mem ha) e.pc List.mem_cons_self, hordered.sublist ?_⟩
  rw [(dispatchEntry_grows s e).1, List.append_assoc, ← List.map_append]
  exact List.Sublist.append_left ((List.Sublist.append_right (List.take_sublist s.fl.length [e]) rest).map _) _

/-- A batch in program order behind the Active List keeps the books. -/
theorem Accounted.foldl_dispatchEntry {issued : List IQEntry} (batch : List DBEntry) {s : State} (h : Accounted s issued)
    (hordered : (s.al.map ALEntry.pc ++ batch.map DBEntry.pc).Pairwise (· < ·)) : Accounted (batch.foldl State.dispatchEntry s) issued := by
  induction batch generalizing s with
  | nil => exact h
  | cons e rest ih =>
    obtain ⟨hpast, hrest⟩ := ordered_dispatchEntry hordered
    exact ih (h.dispatchEntry hpast) hrest

theorem Accounted.dispatch {s t : State} {issued : List IQEntry} (h : Accounted s issued) (hordered : s.orderedPCs.Pairwise (· < ·))
    (ht : Machine.dispatch s = .next t) : Accounted t issued := by
  rw [dispatch_eq, Host.Outcome.next.injEq] at ht
  subst ht
  have hstart : Accounted (s.withDb []) issued := h.congr rfl rfl rfl rfl rfl
  exact (hstart.foldl_dispatchEntry s.db hordered).congr rfl rfl rfl rfl rfl

/-! ### The cycle -/

/-- The latch after Issue: in program order, and ready (R181, R182). -/
structure State.LatchInOrder (s : State) : Prop where
  ordered : (s.execLatch.map IQEntry.pc).Pairwise (· < ·)
  ready : ∀ e ∈ s.execLatch, e.ready = true

/-- The stages after Commit keep the books, and leave the latch that Issue filled (R121). -/
theorem Accounted.laterStages {s u : State} (h : Accounted s s.execLatch) (hordered : s.orderedPCs.Pairwise (· < ·)) (hu : laterStages s = .next u) :
    Accounted u u.execLatch ∧ u.LatchInOrder := by
  obtain ⟨e, d, he, hd, hfetch⟩ := laterStages_eq_next s u hu
  have hexecuted := h.execute he
  have hissue : (Machine.issue e).orderedPCs = s.orderedPCs := by
    obtain ⟨-, -, -, hdb, -⟩ := executeKeepsEverythingElse s e he
    change e.al.map ALEntry.pc ++ e.db.map DBEntry.pc = _
    rw [execute_al_pcs he, hdb]
  have hdispatched := hexecuted.issue.dispatch (hissue ▸ hordered) hd
  obtain ⟨-, -, hlatch, -⟩ := dispatchLoop_frame _ _ _ d hd
  obtain ⟨db, pc, rfl⟩ := fetchDecode_frame d u hfetch
  have hkept : d.execLatch = (Machine.issue e).execLatch := hlatch
  refine ⟨(hkept ▸ hdispatched).congr rfl rfl rfl rfl rfl, ?_, ?_⟩
  · change (d.execLatch.map IQEntry.pc).Pairwise (· < ·)
    rw [hkept]
    exact hexecuted.queueOrder.sublist ((selectReady_selected_sublist Config.width e.iq).map _)
  · change ∀ x ∈ d.execLatch, x.ready = true
    rw [hkept]
    exact issue_execLatch_ready e

end Sys2Proof.Machine

/-! The widths (`00_scope.md` rule R13) over every step: what is decoded, captured and computed is a `uXLEN`, and every index is a `uPCW`. -/

namespace Sys2Proof.Machine

/-! ### Decoded immediates -/

theorem parseImmediate_lt {xlen v : Nat} {t : List Char} (h : parseImmediate xlen t = some v) : v < 2 ^ xlen := by
  unfold parseImmediate at h
  split at h
  next => cases h
  next i _ =>
    split_ifs at h
    cases h
    exact trunc_lt xlen i

theorem textRegisterForm_wellFormed {xlen : Nat} {form : LReg → LReg → LReg → Instr} {a b c : List Char} {i : Instr}
    (hform : ∀ rd rs1 rs2, (form rd rs1 rs2).wellFormed xlen = true) (h : textRegisterForm form a b c = .ok i) : i.wellFormed xlen = true := by
  unfold textRegisterForm at h
  split at h
  next rd rs1 rs2 _ _ _ =>
    cases h
    exact hform rd rs1 rs2
  next => cases h

/-- R95, R103: the one text with an immediate has one within the width. -/
theorem textForm_wellFormed {xlen : Nat} {m a b c : List Char} {i : Instr} (h : textForm xlen m a b c = .ok i) : i.wellFormed xlen = true := by
  unfold textForm at h
  split_ifs at h
  · exact textRegisterForm_wellFormed (fun _ _ _ => rfl) h
  · exact textRegisterForm_wellFormed (fun _ _ _ => rfl) h
  · exact textRegisterForm_wellFormed (fun _ _ _ => rfl) h
  · exact textRegisterForm_wellFormed (fun _ _ _ => rfl) h
  · exact textRegisterForm_wellFormed (fun _ _ _ => rfl) h
  · unfold textImmediateForm at h
    split at h
    next =>
      split at h
      next v hv =>
        cases h
        exact decide_eq_true (parseImmediate_lt hv)
      next => cases h
    next => cases h

/-- R92, R95: whatever decodes has an immediate that the width holds. -/
theorem decodeItem_wellFormed {xlen : Nat} {item : ProgItem} {i : Instr} (h : decodeItem xlen item = .ok i) : i.wellFormed xlen = true := by
  cases item with
  | packed d => exact ((decodeDIR_eq_ok_iff_encode xlen d i).mp h).2
  | text t =>
    change decodeText xlen t = .ok i at h
    unfold decodeText at h
    split at h
    next => cases h
    next =>
      split at h
      next => exact textForm_wellFormed h
      next => cases h

/-! ### The stages of a cycle -/

/-- Every location, `N` and the fault vector are a `uPCW` (R12, R41, R72). -/
theorem index_lt_pcw {p : Config.Params} (h : p.valid) {n : Nat} (hn : n ≤ 65536) : n < 2 ^ p.pcw := by
  have hleast : 2 ^ 17 ≤ 2 ^ p.pcw := Nat.pow_le_pow_right (by decide) h.2
  omega

section
variable {s t : State}

theorem commit_wordsFit (h : s.wordsFit) : (commit s).1.wordsFit := by
  obtain ⟨hvalid, hprf, hflight, hdb, hal, hpc, hepc⟩ := h
  obtain ⟨pre, post, hsplit, -, hc⟩ := commit_cases s
  have hpost : ∀ a ∈ post, a.pc < 2 ^ s.params.pcw := fun a ha => hal a (by rw [hsplit]; exact List.mem_append_right _ ha)
  rcases hc with hc | ⟨a, rest, rfl, -, hc⟩ <;> rw [hc]
  · exact ⟨hvalid, hprf, hflight, hdb, hpost, hpc, hepc⟩
  · exact ⟨hvalid, hprf, hflight, hdb, hpost, index_lt_pcw hvalid (Nat.le_refl _), hpost a List.mem_cons_self⟩

/-- A broadcast of a word leaves words (R205). -/
theorem broadcast_fits {p : Config.Params} {r : AluResult} (hr : r.value < 2 ^ p.xlen) (dest : PReg) {q : IQEntry} (hq : q.fits p) :
    (r.broadcast dest q).fits p := by
  obtain ⟨hA, hB, hpc⟩ := hq
  have hforward : ∀ o : Operand, o.value < 2 ^ p.xlen → (r.forwardTo dest o).value < 2 ^ p.xlen := by
    intro o ho
    rw [forwardTo_eq]
    split_ifs
    · exact hr
    · exact ho
  have hA' := hforward q.operandA hA
  have hB' := hforward q.operandB hB
  rw [← broadcast_operandA] at hA'
  rw [← broadcast_operandB] at hB'
  exact ⟨hA', hB', (broadcast_pc dest r q).symm ▸ hpc⟩

theorem executeOne_wordsFit {e : IQEntry} (h : s.wordsFit) (he : e.fits s.params) (ht : executeOne e s = .next t) : t.wordsFit := by
  obtain ⟨hvalid, hprf, hflight, hdb, hal, hpc, hepc⟩ := h
  rcases executeOne_cases e s with ⟨-, hmiss⟩ | ⟨al, hmark, hnext⟩
  · cases hmiss.symm.trans ht
  · obtain rfl := Host.Outcome.next.inj (hnext.symm.trans ht)
    have hresult : (e.result s.params.xlen).value < 2 ^ s.params.xlen := alu_value_lt s.params.xlen he.1 _ _
    have hwritten : ∀ p, ((s.withAl al).writeback e.destReg (e.result s.params.xlen)).prfAt p < 2 ^ s.params.xlen := by
      intro p
      rw [prfAt_writeback]
      split_ifs
      · exact hresult
      · exact hprf p
    have hmarked : ∀ a ∈ al, a.pc < 2 ^ s.params.pcw := by
      obtain ⟨pre, a, post, hsplit, -, -, rfl⟩ := markDone_eq_some _ _ _ _ hmark
      rw [hsplit] at hal
      obtain ⟨hpre, hrest⟩ := List.forall_mem_append.mp hal
      exact List.forall_mem_append.mpr ⟨hpre, List.forall_mem_cons.mpr (List.forall_mem_cons.mp hrest)⟩
    obtain ⟨hiq, hlatch⟩ := List.forall_mem_append.mp hflight
    rw [writeback_eq] at hwritten ⊢
    refine ⟨hvalid, hwritten, List.forall_mem_append.mpr ⟨?_, hlatch⟩, hdb, hmarked, hpc, hepc⟩
    exact List.forall_mem_map.mpr fun q hq => broadcast_fits hresult e.destReg (hiq q hq)

theorem executeLoop_wordsFit (latch : List IQEntry) {s t : State} (h : s.wordsFit) (hlatch : ∀ e ∈ latch, e.fits s.params)
    (ht : executeLoop latch s = .next t) : t.wordsFit := by
  induction latch generalizing s with
  | nil =>
    cases ht
    exact h
  | cons e rest ih =>
    obtain ⟨he, hrest⟩ := List.forall_mem_cons.mp hlatch
    obtain ⟨u, hu, ht'⟩ := (andThen_eq_next_iff _ _ _).mp ht
    have hkept := executeOne_wordsFit h he hu
    obtain ⟨al, busy, iq, rfl⟩ := executeOne_eq_next e s u hu
    exact ih hkept hrest ht'

theorem execute_wordsFit (h : s.wordsFit) (ht : execute s = .next t) : t.wordsFit := by
  have hlatch : ∀ e ∈ s.execLatch, e.fits s.params := fun e he => h.2.2.1 e (List.mem_append_right _ he)
  obtain ⟨u, hu, hempty⟩ := (andThen_eq_next_iff _ _ _).mp ht
  obtain ⟨hvalid, hprf, hflight, hrest⟩ := executeLoop_wordsFit s.execLatch h hlatch hu
  cases hempty
  exact ⟨hvalid, hprf, fun e he => hflight e (List.mem_append_left _ (by simpa using he)), hrest⟩

theorem issue_wordsFit (h : s.wordsFit) : (issue s).wordsFit := by
  obtain ⟨hvalid, hprf, hflight, hrest⟩ := h
  refine ⟨hvalid, hprf, fun e he => hflight e (List.mem_append_left _ ?_), hrest⟩
  exact (selectReady_perm Config.width s.iq).subset he

/-- A captured operand is a register value or a decoded immediate (R161, R162). -/
theorem newIQEntry_fits (h : s.wordsFit) {e : DBEntry} (hpc : e.pc < 2 ^ s.params.pcw) (hform : e.instr.wellFormed s.params.xlen = true) (p : PReg) :
    (newIQEntry (s.withDb [e]) e.instr.op e.instr.rs1 e.instr.srcB p).fits s.params := by
  obtain ⟨-, hprf, -⟩ := h
  refine ⟨hprf _, ?_, hpc⟩
  change (operandB (s.withDb [e]) e.instr.srcB).value < 2 ^ s.params.xlen
  rw [Instr.wellFormed] at hform
  cases hsrc : e.instr.srcB with
  | reg r => exact hprf _
  | imm v =>
    rw [hsrc] at hform
    exact of_decide_eq_true hform

theorem dispatchEntry_wordsFit (h : s.wordsFit) {e : DBEntry} (hpc : e.pc < 2 ^ s.params.pcw) (hform : e.instr.wellFormed s.params.xlen = true) :
    (s.dispatchEntry e).wordsFit := by
  have hcaptured := newIQEntry_fits h hpc hform
  obtain ⟨hvalid, hprf, hflight, -, hal, hrest⟩ := h
  cases hfl : s.fl with
  | nil =>
    rw [dispatchEntry_of_fl_nil s e hfl]
    exact ⟨hvalid, hprf, hflight, nofun, hal, hrest⟩
  | cons p free =>
    rw [dispatchEntry_of_fl_cons s e hfl]
    obtain ⟨hiq, hlatch⟩ := List.forall_mem_append.mp hflight
    refine ⟨hvalid, hprf, ?_, nofun, ?_, hrest⟩
    · exact List.forall_mem_append.mpr ⟨List.forall_mem_append.mpr ⟨hiq, List.forall_mem_singleton.mpr (hcaptured p)⟩, hlatch⟩
    · exact List.forall_mem_append.mpr ⟨hal, List.forall_mem_singleton.mpr hpc⟩

theorem foldl_dispatchEntry_wordsFit (batch : List DBEntry) {s : State} (h : s.wordsFit)
    (hbatch : ∀ e ∈ batch, e.pc < 2 ^ s.params.pcw ∧ e.instr.wellFormed s.params.xlen = true) : (batch.foldl State.dispatchEntry s).wordsFit := by
  induction batch generalizing s with
  | nil => exact h
  | cons e rest ih =>
    obtain ⟨⟨hpc, hform⟩, hrest⟩ := List.forall_mem_cons.mp hbatch
    exact ih (dispatchEntry_wordsFit h hpc hform) (by rw [dispatchEntry_params]; exact hrest)

theorem dispatch_wordsFit (h : s.wordsFit) (ht : dispatch s = .next t) : t.wordsFit := by
  have hparams : t.params = s.params := by
    obtain ⟨-, -, -, -, -, -, -, hparams, -⟩ := dispatchLoop_frame _ _ _ t ht
    exact hparams
  rw [dispatch_eq, Host.Outcome.next.injEq] at ht
  obtain ⟨hvalid, hprf, hflight, hdb, hrest⟩ := h
  have hstart : (s.withDb []).wordsFit := ⟨hvalid, hprf, hflight, nofun, hrest⟩
  obtain ⟨hvalid', hprf', hflight', -, hrest'⟩ := foldl_dispatchEntry_wordsFit s.db hstart hdb
  have hkept : ∀ e ∈ t.db, e ∈ s.db := by
    subst ht
    intro e he
    rw [withDb_db, State.stalledBuffer] at he
    split at he
    · exact List.mem_of_mem_drop he
    · cases he
  have hbuffer : ∀ e ∈ t.db, e.pc < 2 ^ t.params.pcw ∧ e.instr.wellFormed t.params.xlen = true := by
    rw [hparams]
    exact fun e he => hdb e (hkept e he)
  subst ht
  exact ⟨hvalid', hprf', hflight', hbuffer, hrest'⟩

theorem fetchDecode_wordsFit (h : s.wordsFit) (hfits : programFits s.prog) (ht : fetchDecode s = .next t) : t.wordsFit := by
  rcases fetchDecode_eq_next ht with ⟨-, rfl⟩ | ⟨-, batch, rfl, -, -, hin, hdecoded⟩
  · exact h
  · have hlength : s.progLen ≤ 65536 := hfits
    obtain ⟨hvalid, hprf, hflight, -, hal, hpc, hepc⟩ := h
    refine ⟨hvalid, hprf, hflight, fun e he => ?_, hal, ?_, hepc⟩
    · obtain ⟨item, hread, hdecode⟩ := hdecoded e he
      have hlt : e.pc < s.prog.length := (List.getElem?_eq_some_iff.mp hread).1
      exact ⟨index_lt_pcw hvalid (hlt.le.trans hlength), decodeItem_wellFormed hdecode⟩
    · by_cases hnone : batch = []
      · subst hnone
        exact hpc
      · exact index_lt_pcw hvalid ((hin hnone).trans hlength)

theorem laterStages_wordsFit {u : State} (h : s.wordsFit) (hfits : programFits s.prog) (hu : laterStages s = .next u) : u.wordsFit := by
  obtain ⟨e, d, he, hd, hfetch⟩ := laterStages_eq_next s u hu
  obtain ⟨al, prf, busy, iq, hframe⟩ := execute_frame s e he
  obtain ⟨-, -, -, -, -, -, hprog, -⟩ := dispatchLoop_frame _ _ _ d hd
  have hsame : (issue e).prog = s.prog := by rw [hframe]; rfl
  exact fetchDecode_wordsFit (dispatch_wordsFit (issue_wordsFit (execute_wordsFit h he)) hd) (by rw [hprog, hsame]; exact hfits) hfetch

theorem runCycle_wordsFit (h : s.wordsFit) (hfits : programFits s.prog) (hc : runCycle s = .next t) : t.wordsFit := by
  obtain ⟨-, -, -, -, -, hprog, -⟩ := commit_frame s
  obtain ⟨u, rfl, ⟨-, rfl⟩ | hlater⟩ := runCycle_cases s t hc
  · rw [finishCycle_eq]
    exact commit_wordsFit h
  · have hkept := laterStages_wordsFit (commit_wordsFit h) (hprog.symm ▸ hfits) hlater
    rw [finishCycle_eq]
    exact hkept

theorem recoverStep_wordsFit (h : s.wordsFit) : (recoverStep s).wordsFit := by
  obtain ⟨hpc, hdb, hprf, hlatch, -, hepc, -, hparams⟩ := recoverStep_frame s
  obtain ⟨hvalid, hvalues, hflight, hbuffer, hal, hpc', hepc'⟩ := h
  refine ⟨hparams ▸ hvalid, fun p => ?_, ?_, ?_, ?_, ?_, ?_⟩
  · rw [prfAt_congr s _ hprf, hparams]
    exact hvalues p
  · rw [recoverStep_iq, hlatch, hparams]
    exact fun e he => hflight e (List.mem_append_right _ he)
  · rw [hdb, hparams]
    exact hbuffer
  · rw [recoverStep_al, hparams]
    exact fun a ha => hal a (List.mem_of_mem_take ha)
  · rw [hpc, hparams]
    exact hpc'
  · rw [hepc, hparams]
    exact hepc'

theorem step_wordsFit (h : s.wordsFit) (hfits : programFits s.prog) (hstep : step s = .next t) : t.wordsFit := by
  rcases step_eq_next s t hstep with ⟨-, -, rfl⟩ | ⟨-, -, hc⟩ | ⟨-, rfl⟩ | ⟨-, rfl⟩ | ⟨-, rfl⟩
  · exact h
  · exact runCycle_wordsFit h hfits hc
  · exact recoverStep_wordsFit h
  · exact h
  · exact h

end

end Sys2Proof.Machine

/-! The invariant (`70_reset_and_hazards.md` rules R320 to R323, R326): in its parts, after a launch, over every step, and what it says at the cycle boundaries
of every run. -/

namespace Sys2Proof.Machine

section
variable {s t : State}

/-! ### The invariant in its parts -/

/-- R322: the instructions that wait or are issued are, by PC, those not `Done`. -/
theorem waiting_perm_of_entriesLive (hordered : (s.al.map ALEntry.pc).Nodup) (hlive : s.entriesLive) (hrun : s.mode = .run) :
    ((s.iq ++ s.execLatch).map IQEntry.pc).Perm ((s.al.filter fun a => !a.done).map ALEntry.pc) := by
  obtain ⟨hdistinct, -, -, -, hentry, hwaits⟩ := hlive hrun
  refine (List.perm_ext_iff_of_nodup hdistinct (hordered.sublist (List.filter_sublist.map _))).mpr fun pc => ?_
  simp only [List.mem_map, List.mem_filter, Bool.not_eq_true']
  constructor
  · rintro ⟨e, he, rfl⟩
    obtain ⟨a, ha, hpc, hdone⟩ := hentry e he
    exact ⟨a, ⟨ha, hdone⟩, hpc⟩
  · rintro ⟨a, ⟨ha, hdone⟩, rfl⟩
    exact hwaits a ha hdone

/-- What is unexecuted waits, is issued, or has faulted (R203, R322). -/
theorem pending_of_unexecuted (hdistinct : (s.al.map ALEntry.pc).Nodup) (hlive : s.entriesLive) (hagree : s.destinationsAgree) (hrun : s.mode = .run)
    {p : PReg} {pc pc' : Nat} (hp : s.Unexecuted p pc) (hpc : pc < pc') : s.Pending s.execLatch p pc' := by
  obtain ⟨x, hx, hdest, rfl, hdone | hexc⟩ := hp
  · obtain ⟨-, -, -, -, -, hwaits⟩ := hlive hrun
    obtain ⟨e, he, hepc⟩ := hwaits x.1 (mem_al_of_mem_alDestinations hx) hdone
    obtain ⟨y, hy, hypc, hydest⟩ := hagree hrun e he
    obtain rfl := alDestinations_eq_of_pc hdistinct hx hy (hepc.symm.trans hypc.symm)
    exact .inl ⟨e, he, hydest.symm.trans hdest, hepc ▸ hpc⟩
  · exact .inr ⟨x.1, mem_al_of_mem_alDestinations hx, hexc, hpc⟩

/-- In RUN the invariant's books are kept. -/
theorem accounted_of_inv (h : s.Inv) (hrun : s.mode = .run) : Accounted s s.execLatch := by
  obtain ⟨hpart, hordered, hlive, hagree, hbusy, hwaiters, -⟩ := h
  obtain ⟨hpcs, -, -, -, hdone, -⟩ := hordered
  have hal : (s.al.map ALEntry.pc).Pairwise (· < ·) := (List.pairwise_append.mp hpcs).1
  have hdistinct : (s.al.map ALEntry.pc).Nodup := hal.imp fun hlt => Nat.ne_of_lt hlt
  have hexact : ∀ p, s.isBusy p = true ↔ ∃ pc, s.Unexecuted p pc := fun p => (busyExact_iff p).mp (hbusy hrun p)
  have hawaits : ∀ (pc : Nat) (o : Operand), s.operandSound pc o → s.AwaitsPending s.execLatch pc o := by
    intro pc o ho hr
    obtain ⟨pc', hpc, hp⟩ := (operandSound_iff.mp ho).1 hr
    exact pending_of_unexecuted hdistinct hlive hagree hrun hp hpc
  refine { ordered := hal, faultDone := hdone, waiting := waiting_perm_of_entriesLive hdistinct hlive hrun, operands := fun q hq => ?_, busy := fun p hp => ?_,
           count := length_fl_add_length_al hpart, partition := hpart, queueOrder := (hlive hrun).2.1, agree := hagree hrun, busyExact := hexact,
           waiters := hwaiters hrun }
  · obtain ⟨hA, hB⟩ := hwaiters hrun q hq
    exact ⟨hawaits _ _ hA, hawaits _ _ hB⟩
  · obtain ⟨pc, hpc⟩ := (hexact p).mp hp
    exact ⟨pc + 1, pending_of_unexecuted hdistinct hlive hagree hrun hpc (Nat.lt_succ_self pc)⟩

/-- The invariant from its parts: what every mode keeps, and the books with the latch's order in RUN. -/
theorem inv_of_parts (hpart : s.registersPartition) (hordered : s.pipelineOrdered) (hwords : s.wordsFit)
    (hbooks : s.mode = .run → Accounted s s.execLatch ∧ s.LatchInOrder) : s.Inv := by
  refine ⟨hpart, hordered, fun hrun => ?live, fun hrun => (hbooks hrun).1.agree, fun hrun p => ?busy, fun hrun => (hbooks hrun).1.waiters, hwords⟩
  case live =>
    obtain ⟨h, hlatch⟩ := hbooks hrun
    have hdistinct := h.waiting.nodup_iff.mpr (h.nodup.sublist (List.filter_sublist.map _))
    refine ⟨hdistinct, h.queueOrder, hlatch.ordered, hlatch.ready, fun e he => ?_, fun a ha hwaits => ?_⟩
    · obtain ⟨a, ha, hdone, hpc⟩ := h.alEntry he
      exact ⟨a, ha, hpc, hdone⟩
    · have hmem := h.waiting.symm.subset (List.mem_map_of_mem (f := ALEntry.pc) (List.mem_filter.mpr ⟨ha, by simp [hwaits]⟩))
      exact List.mem_map.mp hmem
  case busy => exact (busyExact_iff p).mpr ((hbooks hrun).1.busyExact p)

theorem latchInOrder_of_inv (h : s.Inv) (hrun : s.mode = .run) : s.LatchInOrder := by
  obtain ⟨-, -, hlive, -⟩ := h
  obtain ⟨-, -, hordered, hready, -⟩ := hlive hrun
  exact ⟨hordered, hready⟩

/-! ### Launch -/

/-- R321 at reset: `32` to `63` are free, and the RAT is the identity. -/
theorem registersPartition_launched (inp : LaunchInput) : (State.launched inp).registersPartition := by
  change (freeListInit ++ identityMap.toList ++ []).Perm (List.finRange Config.nphys)
  have hmapped : identityMap.toList = (List.finRange Config.nphys).take Config.nlog := by decide
  rw [hmapped, List.append_nil, freeListInit]
  exact List.perm_append_comm.trans (List.Perm.of_eq (List.take_append_drop _ _))

theorem launched_accounted (inp : LaunchInput) : Accounted (State.launched inp) [] where
  toInFlight := inFlight_launched inp
  partition := registersPartition_launched inp
  queueOrder := List.Pairwise.nil
  agree := nofun
  busyExact := by
    intro p
    rw [isBusy_launched]
    exact ⟨nofun, fun ⟨_, _, hx, _⟩ => by cases hx⟩
  waiters := nofun

theorem launched_wordsFit {inp : LaunchInput} (h : inp.accepted) : (State.launched inp).wordsFit := by
  obtain ⟨-, hvalid, hvalues, -⟩ := h
  exact ⟨hvalid, hvalues, nofun, nofun, nofun, index_lt_pcw hvalid (Nat.zero_le _), index_lt_pcw hvalid (Nat.zero_le _)⟩

end

/-- Settles O10: the registers are partitioned, nothing is in flight, and the values given fit. -/
theorem launchedStateHasTheInvariant : Obligations.LaunchedStateHasTheInvariant := by
  unfold Obligations.LaunchedStateHasTheInvariant
  intro inp haccepted
  refine inv_of_parts (registersPartition_launched inp) ?_ (launched_wordsFit haccepted) fun _ => ⟨launched_accounted inp, List.Pairwise.nil, nofun⟩
  exact ⟨List.Pairwise.nil, haccepted.1, Nat.zero_le _, Nat.zero_le _, nofun, fun _ => ⟨Nat.zero_le _, nofun, nofun, fun _ => List.isChain_singleton _⟩⟩

/-! ### The step -/

section
variable {s t : State}

/-- A RUN cycle that stays in RUN keeps the books (R121). -/
theorem runCycle_accounted (h : Accounted s s.execLatch) (hordered : s.orderedPCs.Pairwise (· < ·)) (hrun : s.mode = .run) (hc : runCycle s = .next t)
    (ht : t.mode = .run) : Accounted t t.execLatch ∧ t.LatchInOrder := by
  obtain ⟨-, -, -, hlatch, -⟩ := commit_frame s
  have hmode := runCycle_mode hc
  have hfault : (commit s).2 = false := by
    rw [ht, hrun] at hmode
    by_contra hf
    rw [if_pos (Bool.not_eq_false _ ▸ hf)] at hmode
    cases hmode
  obtain ⟨u, rfl, ⟨htrue, -⟩ | hlater⟩ := runCycle_cases s t hc
  · cases hfault.symm.trans htrue
  · obtain ⟨hkept, hissued⟩ := Accounted.laterStages (hlatch.symm ▸ h.commit) (hordered.sublist (commit_orderedPCs_sublist s)) hlater
    rw [hfault]
    exact ⟨hkept.congr rfl rfl rfl rfl rfl, hissued.ordered, hissued.ready⟩

end

/-- Settles O55: the partition, the order and the widths are kept in every mode, and the books by a RUN cycle that stays in RUN. -/
theorem everyStepKeepsTheInvariant : Obligations.EveryStepKeepsTheInvariant := by
  unfold Obligations.EveryStepKeepsTheInvariant
  intro s t h hstep
  have hbooks := accounted_of_inv h
  obtain ⟨hpart, hordered, -, -, -, -, hwords⟩ := h
  obtain ⟨hpcs, hfits, -⟩ := id hordered
  refine inv_of_parts (everyStepKeepsThePartition s t hpart hstep) (everyStepKeepsProgramOrder s t hordered hstep) (step_wordsFit hwords hfits hstep) fun ht => ?_
  rcases step_eq_next s t hstep with ⟨-, -, rfl⟩ | ⟨hm, -, hc⟩ | ⟨hm, rfl⟩ | ⟨-, rfl⟩ | ⟨-, rfl⟩
  · cases ht
  · exact runCycle_accounted (hbooks hm) hpcs hm hc ht
  · rw [recoverStep_mode, hm] at ht
    split_ifs at ht
  · cases ht
  · cases ht

/-! ### Every run -/

section
variable {s t : State}

/-- The launch inputs after any number of steps are those given (R80, R130). -/
theorem run_launchInputs {inp : LaunchInput} {k : Nat} (hrun : Host.Core.run Sys2Proof.core k (State.launched inp) = .next t) :
    t.prog = inp.prog ∧ t.params = inp.params := by
  refine run_keeps (P := fun u => u.prog = inp.prog ∧ u.params = inp.params) (fun u v hu hstep => ?_) k ⟨rfl, rfl⟩ hrun
  obtain ⟨hprog, hparams⟩ := launchInputsStayFixed u v hstep
  exact ⟨hprog.trans hu.1, hparams.trans hu.2⟩

theorem run_inv {inp : LaunchInput} {k : Nat} (h : inp.accepted) (hrun : Host.Core.run Sys2Proof.core k (State.launched inp) = .next t) : t.Inv :=
  run_keeps everyStepKeepsTheInvariant k (launchedStateHasTheInvariant inp h) hrun

/-- R321: two logical registers never share a physical one. -/
theorem mapOf_injective (hpart : s.registersPartition) (r q : LReg) (h : s.mapOf r = s.mapOf q) : r = q := by
  have hall : (s.fl ++ s.rat.toList ++ s.al.map ALEntry.oldDest).Nodup := hpart.nodup_iff.mpr (List.nodup_finRange _)
  have hrat : s.rat.toList.Nodup := (List.nodup_append.mp (List.nodup_append.mp hall).1).2.1
  have hsame : s.rat.toList[r.val] = s.rat.toList[q.val] := by simpa [State.mapOf] using h
  exact Fin.ext ((hrat.getElem_inj_iff).mp hsame)

end

/-- Settles O58: the invariant holds along every run, and these are what its partition and its order say. -/
theorem everyRunKeepsTheBooks : Obligations.EveryRunKeepsTheBooks := by
  unfold Obligations.EveryRunKeepsTheBooks
  intro inp k t haccepted hrun hmode
  obtain ⟨-, hparams⟩ := run_launchInputs hrun
  obtain ⟨hpart, ⟨hordered, -, -, -, -, hin⟩, -⟩ := run_inv haccepted hrun
  refine ⟨length_fl_add_length_al hpart, mapOf_injective hpart, hpart.nodup_iff.mpr (List.nodup_finRange _),
    fun p => hpart.mem_iff.mpr (List.mem_finRange p), (List.pairwise_append.mp hordered).1, fun hretain => ?_⟩
  obtain ⟨-, -, -, hconsecutive⟩ := hin hmode
  exact (hconsecutive (hparams ▸ hretain)).left_of_append.left_of_append

end Sys2Proof.Machine

/-! A finished run and the sequential model (`70_reset_and_hazards.md` rules R315, R324): every register in use has one value to hold, the one the sequential
model gives the instruction it was allocated for, and whoever reads it reads that value or waits for it. -/

namespace Sys2Proof.Machine

/-! ### The sequential model, index by index -/

/-- A program to execute one instruction at a time from initial values of the logical registers (R324). -/
structure SequentialProgram where
  xlen : Nat
  start : Vector Nat Config.nlog
  program : List Instr

/-- The value of a second operand in the sequential model (R95, R324). -/
def sequentialValueB (x : Vector Nat Config.nlog) : OperandB → Nat
  | .reg r => x[r.val]
  | .imm v => v

theorem sequentialResult_eq (xlen : Nat) (x : Vector Nat Config.nlog) (i : Instr) :
    sequentialResult xlen x i = alu xlen i.op x[i.rs1.val] (sequentialValueB x i.srcB) := by
  unfold sequentialResult
  cases i.srcB <;> rfl

theorem sequentialRun_concat (xlen : Nat) (x : Vector Nat Config.nlog) (l : List Instr) (i : Instr) :
    sequentialRun xlen x (l ++ [i]) = sequentialStep xlen (sequentialRun xlen x l) i := by
  induction l generalizing x with
  | nil => rfl
  | cons j rest ih => exact ih (sequentialStep xlen x j)

theorem sequentialClean_append {xlen : Nat} {x : Vector Nat Config.nlog} {l : List Instr} {i : Instr} {rest : List Instr}
    (h : sequentialClean xlen x (l ++ i :: rest) = true) : (sequentialResult xlen (sequentialRun xlen x l) i).fault = false := by
  induction l generalizing x with
  | nil =>
    rw [List.nil_append, sequentialClean, Bool.and_eq_true, Bool.not_eq_true'] at h
    exact h.1
  | cons j l ih =>
    rw [List.cons_append, sequentialClean, Bool.and_eq_true] at h
    exact ih h.2

namespace SequentialProgram
variable (S : SequentialProgram)

/-- The logical registers before instruction `m`. -/
def before (m : Nat) : Vector Nat Config.nlog := sequentialRun S.xlen S.start (S.program.take m)

/-- The result of instruction `i` at index `m`. -/
def result (m : Nat) (i : Instr) : AluResult := sequentialResult S.xlen (S.before m) i

/-- No division has a zero divisor (R324). -/
def Clean : Prop := sequentialClean S.xlen S.start S.program = true

variable {S}

theorem before_succ {m : Nat} {i : Instr} (hi : S.program[m]? = some i) : S.before (m + 1) = (S.before m).set i.rd.val (S.result m i).value := by
  rw [before, List.take_add_one, hi]
  exact sequentialRun_concat _ _ _ _

theorem before_succ_getElem {m : Nat} {i : Instr} (hi : S.program[m]? = some i) (r : LReg) :
    (S.before (m + 1))[r.val] = if r = i.rd then (S.result m i).value else (S.before m)[r.val] := by
  rw [before_succ hi]
  by_cases h : r = i.rd
  · subst h
    simp
  · have hval : i.rd.val ≠ r.val := fun heq => h (Fin.ext heq.symm)
    simp [h, hval]

theorem Clean.result_fault (h : S.Clean) {m : Nat} {i : Instr} (hi : S.program[m]? = some i) : (S.result m i).fault = false := by
  obtain ⟨hm, rfl⟩ := List.getElem?_eq_some_iff.mp hi
  have hsplit : S.program = S.program.take m ++ S.program[m] :: S.program.drop (m + 1) := by
    rw [List.getElem_cons_drop, List.take_append_drop]
  rw [Clean, hsplit] at h
  exact sequentialClean_append h

end SequentialProgram

/-! ### Following the sequential model -/

/-- What the operand holds or waits for is `v`, when each register comes to hold `value` (R162, R205). -/
def Operand.Yields (value : PReg → Nat) (v : Nat) (o : Operand) : Prop := (o.ready = true → o.value = v) ∧ (o.ready = false → value o.tag = v)

section
variable (S : SequentialProgram)

/-- The entry is the instruction at its PC: its operands are the sequential model's, and its destination comes to hold the sequential model's result. -/
def SequentialProgram.Captures (value : PReg → Nat) (q : IQEntry) : Prop :=
  ∃ i, S.program[q.pc]? = some i ∧ q.opCode = i.op ∧ q.operandA.Yields value (S.before q.pc)[i.rs1.val] ∧
    q.operandB.Yields value (sequentialValueB (S.before q.pc) i.srcB) ∧ value q.destReg = (S.result q.pc i).value

/-- With `m` instructions dispatched, each physical register to come to hold `value`: the RAT's registers come to hold the sequential model's values before
instruction `m`; a register that is not busy holds its value; what waits or is issued is an instruction of the program; and none has faulted. -/
structure SequentialProgram.Follows (s : State) (issued : List IQEntry) (m : Nat) (value : PReg → Nat) : Prop where
  width : s.params.xlen = S.xlen
  mapped : ∀ r, value (s.mapOf r) = (S.before m)[r.val]
  settled : ∀ p, s.isBusy p = false → s.prfAt p = value p
  captured : ∀ q ∈ s.iq ++ issued, S.Captures value q
  clean : ∀ a ∈ s.al, a.exc = false

/-- The decode buffer holds the instructions from index `m` to `PC` (R143). -/
structure SequentialProgram.Buffers (s : State) (m : Nat) : Prop where
  pc : s.pc = m + s.db.length
  entries : ∀ j e, s.db[j]? = some e → e.pc = m + j ∧ S.program[m + j]? = some e.instr

/-- The state runs the program, with `Retain`. -/
structure SequentialProgram.RunBy (s : State) : Prop where
  width : s.params.xlen = S.xlen
  retains : s.params.stallMode = .retain
  decodes : s.prog.map (decodeItem S.xlen) = S.program.map Except.ok

end

section
variable {S : SequentialProgram} {s t : State} {issued : List IQEntry} {m : Nat} {value : PReg → Nat}

/-- What following the model is about: the width, the RAT, the register file, the Busy bits, the queue and the Active List's fault flags. -/
theorem SequentialProgram.Follows.congr (h : S.Follows s issued m value) (hparams : t.params = s.params) (hrat : t.rat = s.rat) (hprf : t.prf = s.prf)
    (hbusy : t.busy = s.busy) (hiq : t.iq = s.iq) (hal : t.al ⊆ s.al) : S.Follows t issued m value where
  width := hparams ▸ h.width
  mapped := fun r => by
    rw [mapOf_congr s t hrat]
    exact h.mapped r
  settled := fun p => by
    rw [isBusy_congr s t hbusy, prfAt_congr s t hprf]
    exact h.settled p
  captured := hiq ▸ h.captured
  clean := fun a ha => h.clean a (hal ha)

theorem SequentialProgram.Buffers.congr (h : S.Buffers s m) (hpc : t.pc = s.pc) (hdb : t.db = s.db) : S.Buffers t m where
  pc := by rw [hpc, hdb, h.pc]
  entries := hdb ▸ h.entries

theorem SequentialProgram.RunBy.congr (h : S.RunBy s) (hprog : t.prog = s.prog) (hparams : t.params = s.params) : S.RunBy t where
  width := hparams ▸ h.width
  retains := hparams ▸ h.retains
  decodes := hprog ▸ h.decodes

/-! ### Commit -/

theorem SequentialProgram.Follows.commit (h : S.Follows s issued m value) : S.Follows (commit s).1 issued m value := by
  obtain ⟨-, hrat, hprf, -, -, -, hparams⟩ := commit_frame s
  obtain ⟨hiq, hbusy⟩ := commit_iq_busy s
  exact h.congr hparams hrat hprf hbusy hiq (commit_al_suffix s).subset

theorem SequentialProgram.Follows.commit_noFault (h : S.Follows s issued m value) : (Machine.commit s).2 = false := by
  by_contra hfault
  obtain ⟨-, -, pre, a, post, hal, -, hexc, -⟩ := commit_of_fault s (Bool.not_eq_false _ ▸ hfault)
  cases (h.clean a (by simp [hal])).symm.trans hexc

/-! ### Execute -/

theorem prfAt_driveBus (s : State) (e : IQEntry) (w : Nat) (p : PReg) :
    (s.driveBus (e.bus w)).prfAt p = if p = e.destReg then (e.result w).value else s.prfAt p :=
  prfAt_writePrf s e.destReg p _

/-- A ready entry computes the sequential model's result, which is what its destination is to hold (R201, R324). -/
theorem SequentialProgram.Captures.result {q : IQEntry} (h : S.Captures value q) (hclean : S.Clean) (hready : q.ready = true) :
    (q.result S.xlen).fault = false ∧ (q.result S.xlen).value = value q.destReg := by
  obtain ⟨i, hi, hop, hA, hB, hdest⟩ := h
  rw [ready_eq_operands, Bool.and_eq_true] at hready
  have hresult : q.result S.xlen = S.result q.pc i := by
    rw [result_eq_alu, hop, hA.1 hready.1, hB.1 hready.2, SequentialProgram.result, sequentialResult_eq]
  rw [hresult]
  exact ⟨hclean.result_fault hi, hdest.symm⟩

/-- A broadcast of the value the register is to hold changes no operand's yield (R205). -/
theorem yields_forwardTo {dest : PReg} {r : AluResult} {v : Nat} {o : Operand} (hr : r.value = value dest) (h : o.Yields value v) :
    (r.forwardTo dest o).Yields value v := by
  rw [forwardTo_eq]
  split_ifs with hwoken
  · obtain ⟨-, hwaits, htag⟩ := hwoken
    exact ⟨fun _ => by rw [← h.2 hwaits, htag]; exact hr, nofun⟩
  · exact h

theorem SequentialProgram.Captures.broadcast {q : IQEntry} (h : S.Captures value q) {dest : PReg} {r : AluResult} (hr : r.value = value dest) :
    S.Captures value (r.broadcast dest q) := by
  obtain ⟨i, hi, hop, hA, hB, hdest⟩ := h
  refine ⟨i, ?_, ?_, ?_, ?_, ?_⟩
  · rwa [broadcast_pc]
  · rwa [broadcast_opCode]
  · rw [broadcast_operandA, broadcast_pc]
    exact yields_forwardTo hr hA
  · rw [broadcast_operandB, broadcast_pc]
    exact yields_forwardTo hr hB
  · rwa [broadcast_destReg, broadcast_pc]

/-- One issued entry executed: its register holds its value (R203, R204). -/
theorem SequentialProgram.Follows.driveBus {e : IQEntry} {rest : List IQEntry} (h : S.Follows s (e :: rest) m value) (hclean : S.Clean)
    (hready : e.ready = true) : S.Follows (s.driveBus (e.bus S.xlen)) rest m value := by
  obtain ⟨hiq, hissued⟩ := List.forall_mem_append.mp h.captured
  obtain ⟨he, hrest⟩ := List.forall_mem_cons.mp hissued
  obtain ⟨hfault, hvalue⟩ := he.result hclean hready
  refine { width := h.width, mapped := h.mapped, settled := fun p hidle => ?settled, captured := ?captured, clean := ?clean }
  case settled =>
    rw [isBusy_driveBus] at hidle
    rw [prfAt_driveBus]
    by_cases hown : p = e.destReg
    · rw [if_pos hown, hvalue, hown]
    · rw [if_neg hown]
      exact h.settled p (by simpa [hown] using hidle)
  case captured =>
    rw [driveBus_iq]
    exact List.forall_mem_append.mpr ⟨List.forall_mem_map.mpr fun q hq => (hiq q hq).broadcast hvalue, hrest⟩
  case clean =>
    rw [driveBus_al]
    refine List.forall_mem_map.mpr fun a ha => ?_
    unfold ALEntry.marked
    split
    · exact hfault
    · exact h.clean a ha

theorem SequentialProgram.Follows.foldl_driveBus (latch : List IQEntry) {s : State} (h : S.Follows s latch m value) (hclean : S.Clean)
    (hready : ∀ e ∈ latch, e.ready = true) : S.Follows ((executeBlock S.xlen latch).foldl State.driveBus s) [] m value := by
  induction latch generalizing s with
  | nil => exact h
  | cons e rest ih =>
    obtain ⟨he, hrest⟩ := List.forall_mem_cons.mp hready
    exact ih (h.driveBus hclean he) hrest

theorem SequentialProgram.Follows.execute (h : S.Follows s s.execLatch m value) (hclean : S.Clean) (hbooks : Accounted s s.execLatch)
    (hready : ∀ e ∈ s.execLatch, e.ready = true) (ht : execute s = .next t) : S.Follows t [] m value := by
  rw [hbooks.executes ht, h.width]
  exact (h.foldl_driveBus s.execLatch hclean hready).congr rfl rfl rfl rfl rfl (List.Subset.refl _)

/-! ### Issue -/

theorem SequentialProgram.Follows.issue (h : S.Follows s [] m value) : S.Follows (issue s) (issue s).execLatch m value where
  width := h.width
  mapped := h.mapped
  settled := h.settled
  captured := fun q hq => h.captured q (by
    rw [List.append_nil]
    exact (selectReady_perm Config.width s.iq).subset hq)
  clean := h.clean

/-! ### Rename/Dispatch -/

/-- A source yields what its mapping is to hold (R161, R162). -/
theorem registerOperand_yields (h : S.Follows s issued m value) (r : LReg) : (registerOperand s r).Yields value (S.before m)[r.val] := by
  rw [← h.mapped r]
  refine ⟨fun hready => ?_, fun hwaits => ?_⟩
  · have hidle : s.isBusy (s.mapOf r) = false := by simpa [registerOperand, physicalOperand] using hready
    exact h.settled _ hidle
  · have hbusy : s.isBusy (s.mapOf r) = true := by simpa [registerOperand, physicalOperand] using hwaits
    simp [registerOperand, physicalOperand, hbusy]

theorem operandB_yields (h : S.Follows s issued m value) (src : OperandB) : (operandB s src).Yields value (sequentialValueB (S.before m) src) := by
  cases src with
  | reg r => exact registerOperand_yields h r
  | imm v => exact ⟨fun _ => rfl, nofun⟩

/-- A register that no operand waits on may be given a new value to hold. -/
theorem yields_update {p : PReg} {v v' : Nat} {o : Operand} (ho : o.ready = false → o.tag ≠ p) (h : o.Yields value v) :
    o.Yields (Function.update value p v') v :=
  ⟨h.1, fun hwaits => by rw [Function.update_of_ne (ho hwaits)]; exact h.2 hwaits⟩

theorem SequentialProgram.Captures.update {q : IQEntry} (h : S.Captures value q) {p : PReg} (v : Nat) (hA : q.operandA.ready = false → q.operandA.tag ≠ p)
    (hB : q.operandB.ready = false → q.operandB.tag ≠ p) (hdest : q.destReg ≠ p) : S.Captures (Function.update value p v) q := by
  obtain ⟨i, hi, hop, hyieldsA, hyieldsB, hresult⟩ := h
  exact ⟨i, hi, hop, yields_update hA hyieldsA, yields_update hB hyieldsB, by rw [Function.update_of_ne hdest]; exact hresult⟩

/-- A free register is not mapped (R321). -/
theorem mapOf_ne_of_mem_fl (hpart : s.registersPartition) {p : PReg} (hp : p ∈ s.fl) (r : LReg) : s.mapOf r ≠ p := by
  rintro rfl
  have hall : (s.fl ++ s.rat.toList ++ s.al.map ALEntry.oldDest).Nodup := hpart.nodup_iff.mpr (List.nodup_finRange _)
  have hdisjoint := List.disjoint_of_nodup_append (List.nodup_append.mp hall).1
  exact hdisjoint hp (by simp [State.mapOf])

/-- A free register is not waited for (R321, R326). -/
theorem tag_ne_of_mem_fl (hpart : s.registersPartition) {p : PReg} (hp : p ∈ s.fl) {pc : Nat} {o : Operand} (ho : s.operandSound pc o)
    (hwaits : o.ready = false) : o.tag ≠ p := by
  obtain ⟨pc', -, x, hx, hdest, -⟩ := (operandSound_iff.mp ho).1 hwaits
  rintro rfl
  exact (destinations_of_partition hpart).2 _ hp (hdest ▸ (List.of_mem_zip hx).2)

/-- No operand in flight waits for a free register: what waits is sound, and what is issued is ready. -/
theorem Accounted.operands_ne_free (h : Accounted s issued) (hready : ∀ e ∈ issued, e.ready = true) {p : PReg} (hp : p ∈ s.fl) {q : IQEntry}
    (hq : q ∈ s.iq ++ issued) : (q.operandA.ready = false → q.operandA.tag ≠ p) ∧ (q.operandB.ready = false → q.operandB.tag ≠ p) := by
  rcases List.mem_append.mp hq with hin | hin
  · obtain ⟨hA, hB⟩ := h.waiters q hin
    exact ⟨tag_ne_of_mem_fl h.partition hp hA, tag_ne_of_mem_fl h.partition hp hB⟩
  · have hboth := hready q hin
    rw [ready_eq_operands, Bool.and_eq_true] at hboth
    exact ⟨fun hwaits => absurd (hboth.1.symm.trans hwaits) nofun, fun hwaits => absurd (hboth.2.symm.trans hwaits) nofun⟩

/-- Instruction `m` dispatched: its register is to hold its result, and the RAT's registers the values after it (R164, R165, R324). -/
theorem SequentialProgram.Follows.dispatchEntry (h : S.Follows s issued m value) (hbooks : Accounted s issued) (hready : ∀ e ∈ issued, e.ready = true)
    {e : DBEntry} {p : PReg} {free : List PReg} (hfl : s.fl = p :: free) (hpc : e.pc = m) (hi : S.program[m]? = some e.instr) :
    S.Follows (s.dispatchEntry e) issued (m + 1) (Function.update value p (S.result m e.instr).value) := by
  have hfree : p ∈ s.fl := hfl ▸ List.mem_cons_self
  have hmap : ∀ r, s.mapOf r ≠ p := mapOf_ne_of_mem_fl hbooks.partition hfree
  rw [dispatchEntry_of_fl_cons s e hfl]
  refine { width := h.width, mapped := fun r => ?mapped, settled := fun q hidle => ?settled, captured := ?captured, clean := ?clean }
  case mapped =>
    have hwritten := allocate_mapOf (s := s.withDb [e]) (p := p) (rest := free) e.instr.op e.instr.rd e.instr.rs1 r e.instr.srcB
    rw [before_succ_getElem hi]
    refine (congrArg _ hwritten).trans ?_
    by_cases hrd : r = e.instr.rd
    · rw [if_pos hrd, if_pos hrd, Function.update_self]
    · rw [if_neg hrd, if_neg hrd]
      exact (Function.update_of_ne (hmap r) _ _).trans (h.mapped r)
  case settled =>
    have hset := allocate_isBusy (s := s.withDb [e]) (p := p) (rest := free) e.instr.op e.instr.rd e.instr.rs1 e.instr.srcB q
    have hother : q ≠ p := by
      rintro rfl
      rw [if_pos rfl] at hset
      cases hidle.symm.trans hset
    rw [if_neg hother] at hset
    rw [Function.update_of_ne hother]
    exact h.settled q (hset.symm.trans hidle)
  case captured =>
    have hkept : ∀ q ∈ s.iq ++ issued, S.Captures (Function.update value p (S.result m e.instr).value) q := fun q hq => by
      obtain ⟨hA, hB⟩ := hbooks.operands_ne_free hready hfree hq
      exact (h.captured q hq).update _ hA hB fun hdest => hbooks.destReg_not_mem_fl hq (hdest ▸ hfree)
    have hnew : S.Captures (Function.update value p (S.result m e.instr).value) (newIQEntry (s.withDb [e]) e.instr.op e.instr.rs1 e.instr.srcB p) := by
      have htag : ∀ r, (registerOperand s r).ready = false → (registerOperand s r).tag ≠ p := fun r hwaits => by
        have hbusy : s.isBusy (s.mapOf r) = true := by simpa [registerOperand, physicalOperand] using hwaits
        simpa [registerOperand, physicalOperand, hbusy] using hmap r
      have htagB : (operandB s e.instr.srcB).ready = false → (operandB s e.instr.srcB).tag ≠ p := by
        cases e.instr.srcB with
        | reg r => exact htag r
        | imm v => exact nofun
      subst hpc
      exact ⟨e.instr, hi, rfl, yields_update (htag e.instr.rs1) (registerOperand_yields h e.instr.rs1), yields_update htagB (operandB_yields h e.instr.srcB),
        Function.update_self _ _ _⟩
    refine List.forall_mem_append.mpr ⟨List.forall_mem_append.mpr ⟨fun q hq => hkept q (List.mem_append_left _ hq), List.forall_mem_singleton.mpr hnew⟩,
      fun q hq => hkept q (List.mem_append_right _ hq)⟩
  case clean => exact List.forall_mem_append.mpr ⟨h.clean, List.forall_mem_singleton.mpr rfl⟩

/-- With no register free the whole batch stalls (R163). -/
theorem foldl_dispatchEntry_of_fl_nil (batch : List DBEntry) {s : State} (hfl : s.fl = []) : ∃ db, batch.foldl State.dispatchEntry s = s.withDb db := by
  induction batch generalizing s with
  | nil => exact ⟨s.db, rfl⟩
  | cons e rest ih =>
    rw [List.foldl_cons, dispatchEntry_of_fl_nil s e hfl]
    obtain ⟨db, hdb⟩ := ih (s := s.withDb []) hfl
    exact ⟨db, hdb⟩

/-- The batch dispatched as far as the Free List reaches (R160, R163). -/
theorem SequentialProgram.Follows.foldl_dispatchEntry (batch : List DBEntry) {s : State} {m : Nat} {value : PReg → Nat} (h : S.Follows s issued m value)
    (hbooks : Accounted s issued) (hready : ∀ e ∈ issued, e.ready = true) (hordered : (s.al.map ALEntry.pc ++ batch.map DBEntry.pc).Pairwise (· < ·))
    (hbatch : ∀ j e, batch[j]? = some e → e.pc = m + j ∧ S.program[m + j]? = some e.instr) :
    ∃ value', S.Follows (batch.foldl State.dispatchEntry s) issued (m + min batch.length s.fl.length) value' := by
  induction batch generalizing s m value with
  | nil => exact ⟨value, by simpa using h⟩
  | cons e rest ih =>
    cases hfl : s.fl with
    | nil =>
      obtain ⟨db, hdb⟩ := foldl_dispatchEntry_of_fl_nil (e :: rest) hfl
      rw [hdb]
      exact ⟨value, h.congr rfl rfl rfl rfl rfl (List.Subset.refl _)⟩
    | cons p free =>
      obtain ⟨hpast, hordered'⟩ := ordered_dispatchEntry hordered
      obtain ⟨hpc, hi⟩ := hbatch 0 e rfl
      have hrest : ∀ j x, rest[j]? = some x → x.pc = m + 1 + j ∧ S.program[m + 1 + j]? = some x.instr := fun j x hx => by
        have hx' := hbatch (j + 1) x hx
        rwa [Nat.add_comm j 1, ← Nat.add_assoc] at hx'
      obtain ⟨value', h'⟩ := ih (h.dispatchEntry hbooks hready hfl hpc hi) (hbooks.dispatchEntry hpast) hordered' hrest
      have hcount : m + min (e :: rest).length (p :: free).length = m + 1 + min rest.length (s.dispatchEntry e).fl.length := by
        simp only [dispatchEntry_fl, hfl, List.tail_cons, List.length_cons]
        omega
      exact ⟨value', hcount ▸ h'⟩

/-- Dispatch goes on from instruction `m` and keeps the rest of the buffer (R163, R168). -/
theorem SequentialProgram.Follows.dispatch (h : S.Follows s issued m value) (hbuffer : S.Buffers s m) (hretain : s.params.stallMode = .retain)
    (hbooks : Accounted s issued) (hready : ∀ e ∈ issued, e.ready = true) (hordered : s.orderedPCs.Pairwise (· < ·)) (ht : dispatch s = .next t) :
    ∃ m' value', S.Follows t issued m' value' ∧ S.Buffers t m' := by
  obtain ⟨-, hpc, -⟩ := dispatchLoop_frame _ _ _ t ht
  rw [dispatch_eq, Host.Outcome.next.injEq] at ht
  have hdb : t.db = s.db.drop s.fl.length := by
    rw [← ht, withDb_db, State.stalledBuffer, hretain]
  have hstart : S.Follows (s.withDb []) issued m value := h.congr rfl rfl rfl rfl rfl (List.Subset.refl _)
  obtain ⟨value', h'⟩ := hstart.foldl_dispatchEntry s.db (hbooks.congr rfl rfl rfl rfl rfl) hready hordered hbuffer.entries
  rw [withDb_fl] at h'
  have hfollows : S.Follows t issued (m + min s.db.length s.fl.length) value' := by
    rw [← ht]
    exact h'.congr rfl rfl rfl rfl rfl (List.Subset.refl _)
  refine ⟨_, value', hfollows, ?_, fun j e he => ?_⟩
  · rw [hpc, hbuffer.pc, hdb, List.length_drop]
    omega
  · rw [hdb, List.getElem?_drop] at he
    have hlt := (List.getElem?_eq_some_iff.mp he).1
    have hcount : m + min s.db.length s.fl.length + j = m + (s.fl.length + j) := by omega
    rw [hcount]
    exact hbuffer.entries _ e he

/-! ### Fetch/Decode -/

/-- What a location decodes to is the program's instruction there. -/
theorem SequentialProgram.RunBy.instr (h : S.RunBy s) {pc : Nat} {i : Instr} (hdecode : Memory.decodesTo s.params.xlen s.prog pc i) :
    S.program[pc]? = some i := by
  obtain ⟨item, hread, hok⟩ := hdecode
  have hprog : s.prog[pc]? = some item := hread
  have hsame := congrArg (·[pc]?) h.decodes
  simp only [List.getElem?_map, hprog, Option.map_some, ← h.width, hok] at hsame
  cases hi : S.program[pc]? with
  | none => simp [hi] at hsame
  | some j => simpa [hi] using hsame.symm

theorem SequentialProgram.RunBy.progLen (h : S.RunBy s) : s.progLen = S.program.length := by
  simpa [State.progLen] using congrArg List.length h.decodes

theorem SequentialProgram.Buffers.fetchDecode (h : S.Buffers s m) (hruns : S.RunBy s) (ht : fetchDecode s = .next t) : S.Buffers t m := by
  rcases fetchDecode_eq_next ht with ⟨-, rfl⟩ | ⟨hdb, batch, rfl, hpcs, -, -, hdecoded⟩
  · exact h
  · have hpc : s.pc = m := by simpa [hdb] using h.pc
    refine ⟨by rw [withPc_pc, hpc]; rfl, fun j e he => ?_⟩
    have he' : batch[j]? = some e := he
    have hlt := (List.getElem?_eq_some_iff.mp he').1
    have hindex := congrArg (·[j]?) hpcs
    simp only [List.getElem?_map, he', Option.map_some, List.getElem?_range', hlt, Option.some.injEq, Nat.one_mul] at hindex
    rw [hpc] at hindex
    refine ⟨hindex, ?_⟩
    rw [← hindex]
    exact hruns.instr (hdecoded e (List.mem_of_getElem? he'))

/-! ### The run -/

/-- The stages after Commit follow the model (R121). -/
theorem SequentialProgram.Follows.laterStages {u : State} (h : S.Follows s s.execLatch m value) (hbuffer : S.Buffers s m) (hruns : S.RunBy s) (hclean : S.Clean)
    (hbooks : Accounted s s.execLatch) (hready : ∀ e ∈ s.execLatch, e.ready = true) (hordered : s.orderedPCs.Pairwise (· < ·))
    (hu : laterStages s = .next u) : ∃ m' value', S.Follows u u.execLatch m' value' ∧ S.Buffers u m' := by
  obtain ⟨e, d, he, hd, hfetch⟩ := laterStages_eq_next s u hu
  have hexecuted := h.execute hclean hbooks hready he
  have hpcs := execute_al_pcs he
  have hbooks' := (hbooks.execute he).issue
  obtain ⟨al, prf, busy, iq, rfl⟩ := execute_frame s e he
  have hordered' : (Machine.issue { s with al := al, prf := prf, busy := busy, iq := iq, execLatch := [] }).orderedPCs.Pairwise (· < ·) := by
    change (al.map ALEntry.pc ++ s.db.map DBEntry.pc).Pairwise (· < ·)
    rw [hpcs]
    exact hordered
  obtain ⟨m', value', hdispatched, hbuffer'⟩ := hexecuted.issue.dispatch (hbuffer.congr rfl rfl) hruns.retains hbooks'
    (issue_execLatch_ready _) hordered' hd
  obtain ⟨-, -, hlatch, -, -, -, hprog, hparams, -⟩ := dispatchLoop_frame _ _ _ d hd
  have hfetched := hbuffer'.fetchDecode (hruns.congr hprog hparams) hfetch
  obtain ⟨db, pc, rfl⟩ := fetchDecode_frame d u hfetch
  rw [← hlatch] at hdispatched
  exact ⟨m', value', hdispatched.congr rfl rfl rfl rfl rfl (List.Subset.refl _), hfetched⟩

/-- A drained run has dispatched the whole program, and nothing is busy (R124, R322). -/
theorem SequentialProgram.Follows.logical_of_drained (h : S.Follows s issued m value) (hbuffer : S.Buffers s m) (hruns : S.RunBy s)
    (hbooks : Accounted s issued) (hin : s.pc ≤ s.progLen) (hdrained : s.drained = true) (r : LReg) :
    s.logical r = (S.before S.program.length)[r.val] := by
  obtain ⟨hpast, hdb, hal⟩ := (drained_iff s).mp hdrained
  have hm : m = S.program.length := by
    have hpc := hbuffer.pc
    rw [hdb, List.length_nil] at hpc
    rw [← hruns.progLen]
    omega
  have hidle : s.isBusy (s.mapOf r) = false := by
    by_contra hbusy
    obtain ⟨pc, x, hx, -⟩ := (hbooks.busyExact _).mp (Bool.not_eq_false _ ▸ hbusy)
    have hmem := mem_al_of_mem_alDestinations hx
    rw [hal] at hmem
    cases hmem
  rw [State.logical, h.settled _ hidle, h.mapped r, hm]

/-- A RUN cycle follows the model and finds no fault (R121, R324). -/
theorem SequentialProgram.Follows.runCycle (h : S.Follows s s.execLatch m value) (hbuffer : S.Buffers s m) (hruns : S.RunBy s) (hclean : S.Clean)
    (hinv : s.Inv) (hrun : s.mode = .run) (hc : runCycle s = .next t) :
    t.mode = .run ∧ ∃ m' value', S.Follows t t.execLatch m' value' ∧ S.Buffers t m' := by
  have hfault := h.commit_noFault
  obtain ⟨hdb, -, -, hlatch, hmode, hprog, hparams⟩ := commit_frame s
  obtain ⟨hpc, -⟩ := commit_of_noFault s hfault
  have hcommitted := h.commit
  have hbooks := (accounted_of_inv hinv hrun).commit
  have hready := (latchInOrder_of_inv hinv hrun).ready
  obtain ⟨-, ⟨hordered, -⟩, -⟩ := hinv
  rw [← hlatch] at hcommitted hbooks hready
  obtain ⟨u, rfl, ⟨htrue, -⟩ | hlater⟩ := runCycle_cases s t hc
  · cases hfault.symm.trans htrue
  · obtain ⟨m', value', hfollows, hbuffer'⟩ := hcommitted.laterStages (hbuffer.congr hpc hdb) (hruns.congr hprog hparams) hclean hbooks hready
      (hordered.sublist (commit_orderedPCs_sublist s)) hlater
    obtain ⟨-, -, humode, -⟩ := laterStages_frame hlater
    rw [hfault]
    exact ⟨humode.trans (hmode.trans hrun), m', value', hfollows.congr rfl rfl rfl rfl rfl (List.Subset.refl _), hbuffer'.congr rfl rfl⟩

/-- At every cycle boundary of such a run: the invariant, and in RUN the model followed, or in DONE its final values read. -/
structure SequentialProgram.OnCourse (S : SequentialProgram) (s : State) : Prop where
  inv : s.Inv
  runs : S.RunBy s
  progress : (s.mode = .run ∧ ∃ m value, S.Follows s s.execLatch m value ∧ S.Buffers s m) ∨
    (s.mode = .done ∧ ∀ r, s.logical r = (S.before S.program.length)[r.val])

/-- Each step of such a run follows the model, or ends the run with its values. -/
theorem SequentialProgram.OnCourse.step (hclean : S.Clean) (h : S.OnCourse s) (ht : step s = .next t) : S.OnCourse t := by
  obtain ⟨hprog, hparams⟩ := launchInputsStayFixed s t ht
  refine ⟨everyStepKeepsTheInvariant s t h.inv ht, h.runs.congr hprog hparams, ?_⟩
  obtain ⟨hrun, m, value, hfollows, hbuffer⟩ | ⟨hdone, -⟩ := h.progress
  · rcases step_eq_next s t ht with ⟨-, hdrained, rfl⟩ | ⟨-, -, hc⟩ | ⟨hm, -⟩ | ⟨hm, -⟩ | ⟨hm, -⟩
    · have hbooks := accounted_of_inv h.inv hrun
      obtain ⟨-, ⟨-, -, -, -, -, hin⟩, -⟩ := h.inv
      obtain ⟨hpc, -⟩ := hin hrun
      exact .inr ⟨rfl, hfollows.logical_of_drained hbuffer h.runs hbooks hpc hdrained⟩
    · exact .inl (hfollows.runCycle hbuffer h.runs hclean h.inv hrun hc)
    · cases hrun.symm.trans hm
    · cases hrun.symm.trans hm
    · cases hrun.symm.trans hm
  · cases (finishedRunHasNoStep s (.inl hdone)).symm.trans ht

end

/-- After a launch each register holds its initial value, and the RAT's are the logical registers' (R310, R315). -/
theorem launched_follows (inp : LaunchInput) (program : List Instr) :
    SequentialProgram.Follows ⟨inp.params.xlen, initialLogical inp, program⟩ (State.launched inp) [] 0 fun p => inp.prfInit[p.val] where
  width := rfl
  mapped := fun r => by
    have hinitial : (initialLogical inp)[r.val] = inp.prfInit[r.val] := Vector.getElem_ofFn _
    refine Eq.trans ?_ hinitial.symm
    simp only [mapOf_launched]
  settled := fun _ _ => rfl
  captured := nofun
  clean := nofun

/-- Settles O60: every step from the launch follows the sequential model, and a run that is over reads its last values. -/
theorem finishedRunEqualsTheSequentialModel : Obligations.FinishedRunEqualsTheSequentialModel := by
  unfold Obligations.FinishedRunEqualsTheSequentialModel
  intro inp program k t haccepted hretain hdecodes hclean hrun hdone r
  set S : SequentialProgram := ⟨inp.params.xlen, initialLogical inp, program⟩
  have hstart : S.OnCourse (State.launched inp) :=
    ⟨launchedStateHasTheInvariant inp haccepted, ⟨rfl, hretain, hdecodes⟩, .inl ⟨rfl, 0, _, launched_follows inp program, rfl, nofun⟩⟩
  obtain ⟨hrunning, -⟩ | ⟨-, hvalues⟩ := (run_keeps (fun _ _ => SequentialProgram.OnCourse.step (S := S) hclean) k hstart hrun).progress
  · cases hrunning.symm.trans hdone
  · rw [hvalues r, SequentialProgram.before, List.take_length]

end Sys2Proof.Machine
